-- ==== Sys2Proof/Word.lean ====
section
/-! DEFINITION. The words and small index types the whole model shares: bytes of the host line, values of the timebase T,
converter results, pin levels, and the numbers of slots, field lines, coil channels and trace buffers. -/

namespace Sys2Proof

/-- One byte of a host frame or of a drive link frame (R151, R177). -/
abbrev Byte := BitVec 8

/-- A value of the timebase T: microseconds, 32 bits, wrapping (Conventions, Time). -/
abbrev Time := BitVec 32

/-- A result of the 12-bit converter, 0 to 4,095 (chapter 7). -/
abbrev Adc := BitVec 12

/-- A trial table slot, 0 to 47 (R54). -/
abbrev Slot := Fin 48

/-- A field line, FL0 to FL47 (chapter 2). -/
abbrev LineNo := Fin 48

/-- A coil channel, CC0 to CC15 (R97). -/
abbrev Chan := Fin 16

/-- A trace buffer, 0 to 3 (R119). -/
abbrev Buf := Fin 4

/-- A pin level. -/
inductive Level where
  | low
  | high
  deriving DecidableEq, Repr

/-- The other level. -/
def Level.other : Level → Level
  | .low => .high
  | .high => .low

/-- Levels are coded LOW 0 and HIGH 1 (R185). -/
def Level.code : Level → Nat
  | .low => 0
  | .high => 1

end Sys2Proof
end

