-- ==== Sys2Proof/Syntax.lean ====
section
/-! DEFINITION. The commands of the SCC-16: one constructor per row of spec/opcode_table.json.

Every command but POWER_RESET carries `dt`, the microseconds of T that pass between the command before it and this one, so
that the sequence of commands is a timed trace and T is a true counter (log entry 1). The request rows carry nothing else:
the request's own fields are the bytes of the frame that the handler takes from its queue (R182), so a request reaches the
controller as HOST_BYTE_ARRIVAL commands and is then served. -/

namespace Sys2Proof

/-- The commands: the events of the field, of time and of the host line, and the serving of each request. -/
inductive Instr where
  /-- POWER_RESET (R191): RSTN or power-on, with the levels of the two baud straps as RSTN releases the part (R177). -/
  | powerReset (bsel1 bsel0 : Level)
  /-- SOFT_RESET (R191): the reset that follows the Reset reply's last stop bit. -/
  | softReset (dt : Time)
  /-- FORWARD_COUNT (R5): a decoder sample one forward step on from the reference. -/
  | forwardCount (dt : Time)
  /-- BACKWARD_COUNT (R5): a decoder sample one backward step from the reference. -/
  | backwardCount (dt : Time)
  /-- ILLEGAL_TRANSITION (R6): a decoder sample in which both channels differ from the reference. -/
  | illegalTransition (dt : Time)
  /-- WINDOW_CLOSE (R9): the close of the speed window. -/
  | windowClose (dt : Time)
  /-- ACCEPTED_EDGE (R27): the sample of `line` with which its filter count reaches g + 1. -/
  | acceptedEdge (dt : Time) (line : LineNo)
  /-- PERIOD_BOUNDARY (R101): a boundary of the common 50 µs PWM period. -/
  | periodBoundary (dt : Time)
  /-- SCAN_START (R114): 25 µs into the period; `sense` holds the currents at the sixteen sense inputs at that instant. -/
  | scanStart (dt : Time) (sense : Vector Adc 16)
  /-- SAMPLE_DELIVERY (R115): the end of the next conversion of the scan. -/
  | sampleDelivery (dt : Time)
  /-- ANALOG_READ_CONVERSION_END (R117): the end of the next pending read's conversion, with its result. -/
  | analogReadConversionEnd (dt : Time) (value : Adc)
  /-- WATCH_EXPIRY (R133): T reaches the expiry of the watch of the trial in `slot`. -/
  | watchExpiry (dt : Time) (slot : Slot)
  /-- CHECK_DEADLINE (R155): T reaches the handover check's deadline. -/
  | checkDeadline (dt : Time)
  /-- EXCHANGE_END (R152): the end of the current exchange, with the four bytes of the answer shifted in from DIN. -/
  | exchangeEnd (dt : Time) (status hi lo check : Byte)
  /-- HOST_BYTE_ARRIVAL (R179): a byte on HRXD whose stop bit was sampled at the level `stopBit`. -/
  | hostByteArrival (dt : Time) (byte : Byte) (stopBit : Level)
  /-- GAP_EXPIRY (R179): more than 2 ms since the last held byte of the frame in progress. -/
  | gapExpiry (dt : Time)
  /-- FRAME_TRANSMIT_END (R186): the last stop bit of the frame in transmission. -/
  | frameTransmitEnd (dt : Time)
  /-- IDENTIFY (R189): the handler serves the Identify request at the head of its queue. -/
  | identify (dt : Time)
  /-- STATUS (R190): the handler serves the Status request at the head of its queue. -/
  | status (dt : Time)
  /-- SUBSCRIBE (R188): the handler serves the Subscribe request at the head of its queue. -/
  | subscribe (dt : Time)
  /-- RESET (R191): the handler serves the Reset request at the head of its queue. -/
  | reset (dt : Time)
  /-- SET_LOOP (R2, R3): the handler serves the SetLoop request at the head of its queue. -/
  | setLoop (dt : Time)
  /-- SET_ZONE (R40, R41): the handler serves the SetZone request at the head of its queue. -/
  | setZone (dt : Time)
  /-- SET_CHUTE (R47): the handler serves the SetChute request at the head of its queue. -/
  | setChute (dt : Time)
  /-- SET_EYE (R48): the handler serves the SetEye request at the head of its queue. -/
  | setEye (dt : Time)
  /-- SET_DRIVE (R49): the handler serves the SetDrive request at the head of its queue. -/
  | setDrive (dt : Time)
  /-- SET_LINE (R34 to R36): the handler serves the SetLine request at the head of its queue. -/
  | setLine (dt : Time)
  /-- READ_LINES (R37): the handler serves the ReadLines request at the head of its queue. -/
  | readLines (dt : Time)
  /-- READ_ANALOG (R117): the handler serves the ReadAnalog request at the head of its queue. -/
  | readAnalog (dt : Time)
  /-- LOAD_TRIAL (R56, R57): the handler serves the LoadTrial request at the head of its queue. -/
  | loadTrial (dt : Time)
  /-- CANCEL_TRIAL (R66 to R68): the handler serves the CancelTrial request at the head of its queue. -/
  | cancelTrial (dt : Time)
  /-- CANCEL_ALL (R69): the handler serves the CancelAll request at the head of its queue. -/
  | cancelAll (dt : Time)
  /-- READ_TABLE (R74): the handler serves the ReadTable request at the head of its queue. -/
  | readTable (dt : Time)
  /-- READ_LOG (R172 to R174): the handler serves the ReadLog request at the head of its queue. -/
  | readLog (dt : Time)
  /-- READ_TRACE (R122, R123): the handler serves the ReadTrace request at the head of its queue. -/
  | readTrace (dt : Time)
  /-- HALT (R70): the handler serves the Halt request at the head of its queue. -/
  | halt (dt : Time)
  /-- RESUME (R73): the handler serves the Resume request at the head of its queue. -/
  | resume (dt : Time)
  /-- CLEAR_CHANNEL (R109): the handler serves the ClearChannel request at the head of its queue. -/
  | clearChannel (dt : Time)
  /-- LINK_RESTART (R165): the handler serves the LinkRestart request at the head of its queue. -/
  | linkRestart (dt : Time)
  /-- UNKNOWN_KIND (R182): the handler takes a request whose kind is not in the table of R183. -/
  | unknownKind (dt : Time)
  /-- FIRST_DECODER_SAMPLE (R4): the first sample of ENCA and ENCB after a reset. -/
  | firstDecoderSample (dt : Time) (enca encb : Level)
  /-- LINE_SAMPLE (R27): a synchronised sample of `line` that is not an accepted edge. -/
  | lineSample (dt : Time) (line : LineNo) (level : Level)
  deriving DecidableEq, Repr

end Sys2Proof
end

