-- ==== Sys2Proof/Decode.lean ====
section
/-! DEFINITION. The decoder of table words. The table gives its 42 rows no bits ("fixed" and "fields" stand for none of them),
so no word spells a command, and every word is answered with none. Requests do have bytes: they are decoded from the frames
of the host line (Machine/HostLink.lean, Machine/Operands.lean). -/

namespace Sys2Proof

/-- The command that a table word spells: none, since the table gives no row any bits. -/
def decodeTableWord (_nbits _w : Nat) : Option Instr := none

end Sys2Proof
end

