-- ==== Sys2Proof/Config.lean ====
section
/-! DEFINITION. What the part fixes (identity codes and capacities, R189), and the free values of the model: the orders that
the spec leaves open inside one event, and the level of a clock stopped within its period. A free value has no body, so no proof
can see it, and a claim about it holds whatever it is. -/

namespace Sys2Proof

/-- Vendor code of Identify (R189). -/
def Config.vendorCode : Nat := 0x3A17

/-- Part code of Identify (R189). -/
def Config.partCode : Nat := 0x0C10

/-- Revision of Identify (R189). -/
def Config.revision : Nat := 1

/-- Places of the verdict log (R168). -/
def Config.logPlaces : Nat := 128

/-- Largest payload of a frame (R178). -/
def Config.maxPayload : Nat := 240

/-- FREE VALUE (log entry 4): whether the EYE verdicts of one loss or reverse window are written before those of the fire
entries it removes; R141 allows either. Applied to the count of free choices taken. -/
opaque Config.eyesFirst : Nat → Bool

/-- FREE VALUE (log entry 5): whether the scan that a trace completion causes is taken before the verdict that the same event
writes, or after it; R60 allows either. Applied to the count of free choices taken. -/
opaque Config.scanFirst : Nat → Bool

/-- FREE VALUE (log entry 6): the order in which the coil dones of one PWM boundary are taken, as insertion places; R98 and
R148 leave the order open. Applied to the count of free choices taken. -/
opaque Config.place : Nat → Nat

/-- FREE VALUE (log entry 37): whether DCLK stands HIGH when a take-back stops it within a clock, at an offset in µs from the
start of the exchange; R152 lets it stop where it stands, and where within the microsecond that is, no rule says. -/
opaque Config.clockHigh : Nat → Bool

end Sys2Proof
end

