-- ==== Sys2Proof/Machine/State.lean ====
section
/-! DEFINITION. The state of the SCC-16 as plain data, block by block as the introduction's block table divides it, the
reasons a step can stop, and the state after a POWER reset. Items the spec defines as a view of other items (the effective
direction of a line, the hunter state, the outputs of a channel, the STOP condition) are functions of this state. -/

namespace Sys2Proof.Machine

/-! ## Field lines (LMX, chapter 2) -/

/-- Direction of a line (R21). -/
inductive LineDir where
  | inward
  | outward
  deriving DecidableEq, Repr

/-- Function of a line, in the order of R21. -/
inductive LineFn where
  | unused
  | general
  | home
  | eye
  | stop
  | linkRequest
  | linkBusy
  deriving DecidableEq, Repr

/-- Base configuration of a line (R21). -/
structure LineConfig where
  dir : LineDir
  output : Level
  safe : Level
  pullUp : Bool
  active : Level
  /-- glitch filter length g, 0 to 255 -/
  g : Nat
  fn : LineFn
  deriving DecidableEq, Repr

/-- The reset configuration of R21. -/
def LineConfig.reset : LineConfig :=
  { dir := .inward, output := .low, safe := .low, pullUp := false, active := .high, g := 3, fn := .unused }

/-- One field line: its base configuration and its filter (R27, R30). -/
structure FieldLine where
  cfg : LineConfig
  /-- the accepted level; LOW until the first sample after a reset (log entry 8) -/
  accepted : Level
  /-- whether the first synchronised sample since the reset has been taken (R30) -/
  started : Bool
  /-- filter count c -/
  c : Nat
  deriving DecidableEq, Repr

/-- A line after a reset (R38). -/
def FieldLine.reset : FieldLine := { cfg := .reset, accepted := .low, started := false, c := 0 }

/-- The line matrix. -/
structure Lmx where
  lines : Vector FieldLine 48
  homeHolder : Option LineNo
  stopHolder : Option LineNo
  requestHolder : Option LineNo
  busyHolder : Option LineNo
  /-- the LINK_REQUEST assertion as DLK last set it (R24) -/
  asserted : Bool
  deriving DecidableEq, Repr

/-- LMX after a reset (R38). -/
def Lmx.reset : Lmx :=
  { lines := Vector.replicate 48 .reset, homeHolder := none, stopHolder := none, requestHolder := none,
    busyHolder := none, asserted := false }

/-! ## Loop tracker (LTR, chapter 1) -/

/-- Direction of the last closed window (R9). -/
inductive LoopDir where
  | forward
  | reverse
  deriving DecidableEq, Repr

/-- Trust in H (section 1.5). -/
inductive Trust where
  | unsynced
  | synced
  | lost
  deriving DecidableEq, Repr

/-- The loop tracker. L is the product N × P (R1) and a view. -/
structure Ltr where
  /-- trays on the loop -/
  N : Nat
  /-- counts per tray pitch -/
  P : Nat
  /-- home tolerance -/
  HT : Nat
  /-- head count -/
  H : Nat
  /-- net signed count of the open speed window -/
  n : Int
  /-- speed of the last closed window -/
  V : Nat
  /-- direction of the last closed window -/
  dir : LoopDir
  /-- reverse excursion -/
  R : Nat
  trust : Trust
  lastCorrection : Int
  /-- ENCA and ENCB of the previous decoder sample, none before the first sample after a reset (R4) -/
  ref : Option (Level × Level)
  /-- the window schedule: the T of the next close (R8) -/
  nextClose : Time
  deriving DecidableEq, Repr

/-- LTR after a POWER reset (R19). -/
def Ltr.reset : Ltr :=
  { N := 64, P := 1024, HT := 16, H := 0, n := 0, V := 0, dir := .forward, R := 0, trust := .unsynced,
    lastCorrection := 0, ref := none, nextClose := 4096 }

/-! ## Zone map and target records (ZMR, chapter 3) -/

/-- The coil profile of a chute record (R45). -/
structure Profile where
  pullDuty : Nat
  pullPeriods : Nat
  holdDuty : Nat
  holdPeriods : Nat
  dead : Nat
  returnDuty : Nat
  returnPeriods : Nat
  recover : Nat
  trip : Nat
  deriving DecidableEq, Repr

/-- The trace fields of a chute record, less the trace enable (R46). -/
structure TraceFields where
  m : Nat
  theta : Nat
  cMin : Nat
  dipMin : Nat
  dipMax : Nat
  holdLo : Nat
  holdHi : Nat
  deriving DecidableEq, Repr

/-- A chute record (R44 to R46). -/
structure ChuteRecord where
  chute : Nat
  S : Nat
  tau : Nat
  eyeLine : Option LineNo
  wOpen : Nat
  wClose : Nat
  wLate : Nat
  profile : Profile
  traceOn : Bool
  trace : TraceFields
  deriving DecidableEq, Repr

/-- An eye record (R48). -/
structure EyeRecord where
  line : LineNo
  X : Nat
  tol : Nat
  expected : Option Nat
  lenTol : Nat
  passes : Nat
  deriving DecidableEq, Repr

/-- A drive record (R49). -/
structure DriveRecord where
  select : Fin 8
  base : Nat
  maximum : Nat
  checkMs : Nat
  riseLimit : Nat
  overshootLimit : Nat
  band : Nat
  deriving DecidableEq, Repr

/-- The zone map and the target records; a record that is none is undefined (R43). -/
structure Zmr where
  baseA : Nat
  baseB : Nat
  chutes : Vector (Option ChuteRecord) 16
  eyes : Vector (Option EyeRecord) 16
  drives : Vector (Option DriveRecord) 8
  deriving DecidableEq, Repr

/-- ZMR after a reset (R53). -/
def Zmr.reset : Zmr :=
  { baseA := 0, baseB := 8, chutes := Vector.replicate 16 none, eyes := Vector.replicate 16 none,
    drives := Vector.replicate 8 none }

/-! ## Trial table (TTB, chapter 4) -/

/-- The cause of a halt, in the order of R70. -/
inductive HaltCause where
  | stop
  | halt
  deriving DecidableEq, Repr

/-- Run control, with the halt cause while HALTED (R70). -/
inductive RunControl where
  | running
  | halted (cause : HaltCause)
  deriving DecidableEq, Repr

/-- The kind of a trial with its parameters (R54); `tray = none` is NEXT. -/
inductive Target where
  | chute (chute : Nat) (tray : Option Nat)
  | coil (chute : Nat)
  | eye (record : Fin 16)
  | drive (record : Fin 8) (step vExp duration : Nat)
  deriving DecidableEq, Repr

/-- The state of an occupied slot's trial (R54). -/
inductive TrialState where
  | loaded
  | armed
  | active
  deriving DecidableEq, Repr

/-- Hold reasons, in the order of R61. -/
inductive HoldReason where
  | halted
  | setup
  | channelFault
  | linkFault
  | noPosition
  | resource
  | order
  | logFull
  | traceBusy
  deriving DecidableEq, Repr

/-- The end of a trial, decided while its verdict waits (R54). -/
inductive TrialEnd where
  | open_
  | cancelled
  | aborted (cause : HaltCause)
  deriving DecidableEq, Repr

/-- The resources a trial took at arming (R54, R59). -/
structure Held where
  channel : Option Chan
  line : Option LineNo
  link : Bool
  buffer : Option Buf
  reservation : Bool
  deriving DecidableEq, Repr

/-- Nothing held: the held resources of a LOADED trial. -/
def Held.nothing : Held := { channel := none, line := none, link := false, buffer := none, reservation := false }

/-- A trial record (R54). -/
structure Trial where
  number : Nat
  target : Target
  state : TrialState
  loadOrder : BitVec 32
  hold : Option HoldReason
  tArm : Option Time
  held : Held
  ending : TrialEnd
  deriving DecidableEq, Repr

/-- The trial table; a slot that is none is EMPTY. -/
structure Ttb where
  slots : Vector (Option Trial) 48
  loadCounter : BitVec 32
  run : RunControl
  channelHolder : Vector (Option Slot) 16
  lineHolder : Vector (Option Slot) 48
  linkHolder : Option Slot
  deriving DecidableEq, Repr

/-- TTB after a reset (R76). -/
def Ttb.reset : Ttb :=
  { slots := Vector.replicate 48 none, loadCounter := 0, run := .running, channelHolder := Vector.replicate 16 none,
    lineHolder := Vector.replicate 48 none, linkHolder := none }

/-! ## Fire scheduler (FSC, chapter 5) -/

/-- An entry of the fire list (R77). -/
structure FireEntry where
  slot : Slot
  number : Nat
  channel : Chan
  S : Nat
  tray : Nat
  Q : Nat
  tau : Nat
  lead : Nat
  F : Nat
  skip : Nat
  clamped : Bool
  deriving DecidableEq, Repr

/-! ## Coil driver (CDU, chapter 6) -/

/-- The state of a coil channel, in the order of R97. -/
inductive ChanState where
  | idle
  | pullIn
  | hold
  | gap1
  | ret
  | gap2
  | recover
  | fault
  deriving DecidableEq, Repr

/-- A trial as another block names it: its slot and its number (R97). -/
structure Owner where
  slot : Slot
  number : Nat
  deriving DecidableEq, Repr

/-- The fault record of a channel (R97). -/
structure FaultRecord where
  phase : ChanState
  p : Nat
  value : Adc
  t : Time
  deriving DecidableEq, Repr

/-- A coil channel (R97). -/
structure Channel where
  state : ChanState
  profile : Option Profile
  owner : Option Owner
  startPending : Bool
  returnRequested : Bool
  remaining : Nat
  p : Option Nat
  tb : Option Time
  guard : Nat
  fault : Option FaultRecord
  deriving DecidableEq, Repr

/-- A channel after a reset (R113). -/
def Channel.reset : Channel :=
  { state := .idle, profile := none, owner := none, startPending := false, returnRequested := false, remaining := 0,
    p := none, tb := none, guard := 256, fault := none }

/-- The coil driver: its channels, and the boundary that opened the present PWM period (R98). -/
structure Cdu where
  channels : Vector Channel 16
  periodStart : Time
  deriving DecidableEq, Repr

/-- CDU after a POWER reset (R98, R113). The guards stand at 256 with the boundary at T = 0 already past: the model's choice (log
entry 38). -/
def Cdu.reset : Cdu := { channels := Vector.replicate 16 .reset, periodStart := 0 }

/-! ## Trace unit (TRU, chapter 7) -/

/-- An input of a ReadAnalog request (R117). -/
inductive AnalogInput where
  | sense (channel : Chan)
  | general (index : Fin 4)
  deriving DecidableEq, Repr

/-- The state of a trace, in the order of R119. -/
inductive TraceState where
  | filling
  | completeUnread
  | read
  deriving DecidableEq, Repr

/-- The cause of a trace's completion, in the order of R121. -/
inductive TraceCause where
  | full
  | ended
  | cancelled
  | halted
  | removed
  deriving DecidableEq, Repr

/-- A trace record (R119). -/
structure Trace where
  number : Nat
  channel : Chan
  fields : TraceFields
  pullPeriods : Nat
  holdPeriods : Nat
  tb : Option Time
  samples : List Adc
  nPull : Nat
  nHold : Nat
  nReturn : Nat
  state : TraceState
  /-- cause and completion order, present once complete (R121) -/
  completion : Option (TraceCause × BitVec 32)
  grant : BitVec 32
  deriving DecidableEq, Repr

/-- A coil result record (R124). -/
structure CoilFigures where
  dip : Option Nat
  peak : Nat
  holdMean : Option Nat
  deriving DecidableEq, Repr

/-- The trace unit. `scanBegun` and `readsJoined` say where the present period's scan stands (R114, R117). -/
structure Tru where
  /-- this period's scan has begun -/
  scanBegun : Bool
  /-- the channels still to be converted, each with the value its sample-and-hold captured -/
  scanList : List (Chan × Adc)
  /-- conversions ended in this period -/
  converted : Nat
  /-- the pending reads still to be converted -/
  pendingReads : List AnalogInput
  /-- the pending reads follow this period's scan -/
  readsJoined : Bool
  /-- results of the request's reads so far -/
  readResults : List (AnalogInput × Adc)
  buffers : Vector (Option Trace) 4
  completionCounter : BitVec 32
  grantCounter : BitVec 32
  results : Vector (Option CoilFigures) 16
  deriving DecidableEq, Repr

/-- TRU after a reset (R128). -/
def Tru.reset : Tru :=
  { scanBegun := false, scanList := [], converted := 0, pendingReads := [], readsJoined := false, readResults := [],
    buffers := Vector.replicate 4 none, completionCounter := 0, grantCounter := 0, results := Vector.replicate 16 none }

/-! ## Verdicts (chapters 8 and 10) -/

/-- Outcome codes, in the order of R193. -/
inductive VerdictOutcome where
  | pass
  | early
  | late
  | missing
  | blocked
  | unobserved
  | coilFault
  | coilNoMotion
  | coilSlow
  | coilFast
  | holdLow
  | holdHigh
  | notTraced
  | sensorMiss
  | sensorStray
  | sensorDouble
  | sensorLength
  | driveSlow
  | driveOvershoot
  | driveUnsettled
  | driveRefused
  | driveFault
  | driveLinkError
  | aborted
  | cancelled
  deriving DecidableEq, Repr

/-- Reasons of an ABORTED verdict, in the order of R144. -/
inductive Reason where
  | stop
  | halt
  | positionLost
  | reverse
  | conflict
  | takenBack
  deriving DecidableEq, Repr

/-- The kind of a trial, in the order of R54. -/
inductive Kind where
  | chute
  | coil
  | eye
  | drive
  deriving DecidableEq, Repr

/-- The flags of a verdict (R146). -/
structure VerdictFlags where
  leadClamped : Bool
  lateFire : Bool
  stillBlocked : Bool
  setpointClamped : Bool
  releaseFailed : Bool
  deriving DecidableEq, Repr

/-- The FIRE part (R147). -/
structure FirePart where
  tf : Time
  tray : Nat
  position : Nat
  lead : Nat
  late : Nat
  deriving DecidableEq, Repr

/-- The ITEM part (R147). -/
structure ItemPart where
  arrival : Option Nat
  dwell : Option Nat
  extra : Nat
  deriving DecidableEq, Repr

/-- The COIL part (R147). -/
structure CoilPart where
  outcome : VerdictOutcome
  buffer : Option Buf
  dip : Option Nat
  peak : Nat
  holdMean : Option Nat
  deriving DecidableEq, Repr

/-- The SENSOR part (R147). -/
structure SensorPart where
  hits : Nat
  misses : Nat
  extras : Nat
  strays : Nat
  dMin : Option Int
  dMax : Option Int
  dSum : Int
  lenMin : Option Int
  lenMax : Option Int
  lenFailures : Nat
  deriving DecidableEq, Repr

/-- The DRIVE part (R147, R166). -/
structure DrivePart where
  index : Nat
  setpoint : Nat
  v0 : Nat
  peak : Nat
  rise : Nat
  settle : Option Nat
  lastStatus : Option (Byte × Nat)
  deriving DecidableEq, Repr

/-- A verdict record (R144 to R147). -/
structure Verdict where
  serial : BitVec 16
  number : Nat
  kind : Kind
  outcome : VerdictOutcome
  reason : Option Reason
  flags : VerdictFlags
  target : Nat
  tArm : Time
  fire : Option FirePart
  item : Option ItemPart
  coil : Option CoilPart
  sensor : Option SensorPart
  drive : Option DrivePart
  deriving DecidableEq, Repr

/-- The verdict log (chapter 10); `occupied` is the number of records. -/
structure Vlg where
  records : List Verdict
  reserved : Nat
  nextSerial : BitVec 16
  deriving DecidableEq, Repr

/-- VLG after a reset (R176). -/
def Vlg.reset : Vlg := { records := [], reserved := 0, nextSerial := 0 }

/-! ## Observation unit (OBU, chapter 8) -/

/-- What FSC hands OBU at a fire (R94). -/
structure FireInfo where
  part : FirePart
  leadClamped : Bool
  lateFire : Bool
  deriving DecidableEq, Repr

/-- The state of a watch (R130). -/
inductive WatchState where
  | opened
  | arrived
  | dwellTaken
  | blocked
  | ended
  deriving DecidableEq, Repr

/-- A watch record (R130). -/
structure Watch where
  fire : FireInfo
  line : Option LineNo
  wOpen : Nat
  wClose : Nat
  wLate : Nat
  expiry : Time
  state : WatchState
  arrival : Option Nat
  arrivalRaw : Option Time
  dwell : Option Nat
  extra : Nat
  stillBlocked : Bool
  item : Option VerdictOutcome
  deriving DecidableEq, Repr

/-- The judgement of a leading edge (R138). -/
inductive EdgeJudgement where
  | hit
  | extra
  | stray
  deriving DecidableEq, Repr

/-- An eye observation record (R136). -/
structure EyeObservation where
  line : LineNo
  X : Nat
  tol : Nat
  expected : Option Nat
  lenTol : Nat
  passes : Nat
  /-- tray and pass point of the first expected pass E_0 -/
  tray : Nat
  passPoint : Nat
  u : Int
  uE0 : Int
  uEnd : Int
  /-- the passes that have a hit -/
  hitPasses : List Nat
  closed : Nat
  /-- judgement and u_e of the last leading edge -/
  lastLead : Option (EdgeJudgement × Int)
  hits : Nat
  misses : Nat
  extras : Nat
  strays : Nat
  dMin : Option Int
  dMax : Option Int
  dSum : Int
  lenMin : Option Int
  lenMax : Option Int
  lenFailures : Nat
  deriving DecidableEq, Repr

/-- How a profile ended (R110). -/
inductive CoilEnding where
  | complete
  | fault
  | forced
  | withdrawn
  deriving DecidableEq, Repr

/-- A coil done as handed to OBU (R110), with the trace unit's coil results (R124, R127). -/
structure CoilReport where
  channel : Chan
  ending : CoilEnding
  tb : Option Time
  periodsRun : Option Nat
  phase : Option ChanState
  outcome : VerdictOutcome
  buffer : Option Buf
  figures : CoilFigures
  deriving DecidableEq, Repr

/-- The values DLK latches at arming (R154). -/
structure DriveLatch where
  index : Fin 8
  record : DriveRecord
  step : Nat
  vExp : Nat
  duration : Nat
  deriving DecidableEq, Repr

/-- The drive link's final report (R166), which hands on the latched values, the indications, the bad QUERY count and the last drive
status as they stand (R162, R165). -/
structure DriveReport where
  abort : Option Reason
  outcome : Option VerdictOutcome
  setpointClamped : Bool
  releaseFailed : Bool
  part : Option DrivePart
  latch : Option DriveLatch
  faultSeen : Bool
  refused : Bool
  linkError : Bool
  badQuery : Nat
  lastStatus : Option (Byte × Nat)
  deriving DecidableEq, Repr

/-- The observation unit; the records of a trial stand under its slot. -/
structure Obu where
  observers : Vector (Option Owner) 48
  watches : Vector (Option Watch) 48
  eyes : Vector (Option EyeObservation) 48
  coils : Vector (Option CoilReport) 48
  drives : Vector (Option DriveReport) 48
  deriving DecidableEq, Repr

/-- OBU after a reset (R149). -/
def Obu.reset : Obu :=
  { observers := Vector.replicate 48 none, watches := Vector.replicate 48 none, eyes := Vector.replicate 48 none,
    coils := Vector.replicate 48 none, drives := Vector.replicate 48 none }

/-! ## Drive link (DLK, chapter 9) -/

/-- The state of the link, in the order of R150. -/
inductive LinkState where
  | idle
  | checking
  | owned
  | releasing
  | fault
  deriving DecidableEq, Repr

/-- The commands of the link; SETPOINT is told apart by what it carries, the step or the base setpoint (R151). -/
inductive DriveCmd where
  | step
  | base
  | query
  | stop
  | release
  deriving DecidableEq, Repr

/-- An exchange being shifted (R152). -/
structure Exchange where
  cmd : DriveCmd
  value : Nat
  select : Fin 8
  start : Time
  deriving DecidableEq, Repr

/-- The measurement (R158); `up` is the direction of the step. -/
structure Measurement where
  v0 : Nat
  theta90 : Nat
  up : Bool
  windows : Nat
  rise : Option Nat
  peak : Option Nat
  lastOut : Option Nat
  lastIn : Option Bool
  deriving DecidableEq, Repr

/-- The drive link. `stopStarted` remembers that a STOP exchange of the present release has started (R164); `clockStop` is
the offset at which an abandoned exchange stopped DCLK (R152). -/
structure Dlk where
  state : LinkState
  owner : Option Owner
  latch : Option DriveLatch
  deadline : Option Time
  busySeen : Bool
  cur : Option Exchange
  next : Option DriveCmd
  plan : List DriveCmd
  setpointSent : Nat
  measurement : Option Measurement
  badQuery : Nat
  faultSeen : Bool
  refused : Bool
  linkError : Bool
  setpointClamped : Bool
  releaseFailed : Bool
  abort : Option Reason
  lastStatus : Option (Byte × Nat)
  stopStarted : Bool
  clockStop : Option Time
  deriving DecidableEq, Repr

/-- DLK after a reset (R167). The latched values, for which R167 gives none, and the setpoint sent, 0, are the model's choice
(log entry 27). -/
def Dlk.reset : Dlk :=
  { state := .idle, owner := none, latch := none, deadline := none, busySeen := false, cur := none, next := none,
    plan := [], setpointSent := 0, measurement := none, badQuery := 0, faultSeen := false, refused := false,
    linkError := false, setpointClamped := false, releaseFailed := false, abort := none, lastStatus := none,
    stopStarted := false, clockStop := none }

/-! ## Host link (HLK, chapter 11) -/

/-- A set of the four notice kinds: the flags, the subscriptions or the pending notices (R187, R188). -/
structure NoticeSet where
  halt : Bool
  track : Bool
  fault : Bool
  log : Bool
  deriving DecidableEq, Repr

/-- No notice kind. -/
def NoticeSet.empty : NoticeSet := { halt := false, track := false, fault := false, log := false }

/-- A frame, less its start byte, length and CRC, which follow from it (R178). -/
structure Frame where
  kind : Byte
  tag : Byte
  payload : List Byte
  deriving DecidableEq, Repr

/-- The handler's state; while WAITING it keeps the tag of the ReadAnalog it serves (R182). -/
inductive Handler where
  | idle
  | waiting (tag : Byte)
  deriving DecidableEq, Repr

/-- How far an accepted Reset request has come (R191). -/
inductive ResetPhase where
  | off
  | replyWaiting
  | replySending
  | due
  deriving DecidableEq, Repr

/-- The frame in transmission and the T at which its first bit began (R186). -/
structure Transmission where
  frame : Frame
  start : Time
  deriving DecidableEq, Repr

/-- The host link. The hunter state is a view of the held bytes. -/
structure Hlk where
  /-- strap code of the line rate (R177) -/
  strap : Fin 4
  /-- held bytes of the frame in progress, each with its arrival time -/
  held : List (Byte × Time)
  queue : List Frame
  /-- tag and kind of each frame to be answered QUEUE_FULL -/
  busy : List (Byte × Byte)
  handler : Handler
  reply : Option Frame
  tx : Option Transmission
  flags : NoticeSet
  overrun : Bool
  subs : NoticeSet
  notices : NoticeSet
  resetPhase : ResetPhase
  deriving DecidableEq, Repr

/-- HLK after a POWER reset (R192), with both straps LOW (log entry 9). -/
def Hlk.reset : Hlk :=
  { strap := 0, held := [], queue := [], busy := [], handler := .idle, reply := none, tx := none, flags := .empty,
    overrun := false, subs := .empty, notices := .empty, resetPhase := .off }

/-! ## The machine -/

/-- The whole state. `choices` is the model's own field: the number of free choices taken so far, which the free values of
Config are applied to (log entry 3). `pending` is the queue of commands. -/
structure State where
  /-- the timebase -/
  T : Time
  ltr : Ltr
  lmx : Lmx
  zmr : Zmr
  ttb : Ttb
  /-- the fire list -/
  fsc : List FireEntry
  cdu : Cdu
  tru : Tru
  obu : Obu
  dlk : Dlk
  vlg : Vlg
  hlk : Hlk
  choices : Nat
  pending : List Instr
  deriving DecidableEq, Repr

/-- The state right after a POWER reset with both baud straps LOW. -/
def State.reset : State :=
  { T := 0, ltr := .reset, lmx := .reset, zmr := .reset, ttb := .reset, fsc := [], cdu := .reset, tru := .reset,
    obu := .reset, dlk := .reset, vlg := .reset, hlk := .reset, choices := 0, pending := [] }

/-- Faults: there are none. The spec gives every command its effect, and answers what it does not accept with a REFUSED
frame, which is a next state; field failures are outcomes of verdicts (Conventions). Safe. -/
inductive Fault
  deriving DecidableEq, Repr

/-- Refusals. -/
inductive Refusal where
  /-- Raised only by an arm of `exec` for a command without a meaning; every command has one. Safe. -/
  | notModelled (mnemonic : String)
  deriving DecidableEq, Repr

end Sys2Proof.Machine
end

