-- ==== Sys2Proof/Machine/Codes.lean ====
section
/-! DEFINITION. The codes by which named values cross the host line: from 0 in the order in which their owning rule lists
them (R185), and the codes that chapter 11 gives itself (R183, R184, R193). -/

namespace Sys2Proof.Machine

def LineDir.code : LineDir → Nat
  | .inward => 0
  | .outward => 1

/-- In the order of R21. -/
def LineFn.code : LineFn → Nat
  | .unused => 0
  | .general => 1
  | .home => 2
  | .eye => 3
  | .stop => 4
  | .linkRequest => 5
  | .linkBusy => 6

def LoopDir.code : LoopDir → Nat
  | .forward => 0
  | .reverse => 1

def Trust.code : Trust → Nat
  | .unsynced => 0
  | .synced => 1
  | .lost => 2

def HaltCause.code : HaltCause → Nat
  | .stop => 0
  | .halt => 1

def RunControl.code : RunControl → Nat
  | .running => 0
  | .halted _ => 1

/-- The halt cause, present while HALTED. -/
def RunControl.cause : RunControl → Option HaltCause
  | .running => none
  | .halted c => some c

/-- Whether run control is HALTED. -/
def RunControl.isHalted : RunControl → Bool
  | .running => false
  | .halted _ => true

def TrialState.code : TrialState → Nat
  | .loaded => 0
  | .armed => 1
  | .active => 2

/-- In the order of R61. -/
def HoldReason.code : HoldReason → Nat
  | .halted => 0
  | .setup => 1
  | .channelFault => 2
  | .linkFault => 3
  | .noPosition => 4
  | .resource => 5
  | .order => 6
  | .logFull => 7
  | .traceBusy => 8

/-- The end of an ACTIVE trial in a ReadTable reply (R185). -/
def TrialEnd.code : TrialEnd → Nat
  | .open_ => 0
  | .cancelled => 1
  | .aborted .stop => 2
  | .aborted .halt => 3

/-- In the order of R97. -/
def ChanState.code : ChanState → Nat
  | .idle => 0
  | .pullIn => 1
  | .hold => 2
  | .gap1 => 3
  | .ret => 4
  | .gap2 => 5
  | .recover => 6
  | .fault => 7

/-- Input codes of ReadAnalog (R183). -/
def AnalogInput.code : AnalogInput → Nat
  | .sense c => c.val
  | .general k => 16 + k.val

def TraceState.code : TraceState → Nat
  | .filling => 0
  | .completeUnread => 1
  | .read => 2

def TraceCause.code : TraceCause → Nat
  | .full => 0
  | .ended => 1
  | .cancelled => 2
  | .halted => 3
  | .removed => 4

def LinkState.code : LinkState → Nat
  | .idle => 0
  | .checking => 1
  | .owned => 2
  | .releasing => 3
  | .fault => 4

/-- Outcome codes 0 to 24 (R193). -/
def VerdictOutcome.code : VerdictOutcome → Nat
  | .pass => 0
  | .early => 1
  | .late => 2
  | .missing => 3
  | .blocked => 4
  | .unobserved => 5
  | .coilFault => 6
  | .coilNoMotion => 7
  | .coilSlow => 8
  | .coilFast => 9
  | .holdLow => 10
  | .holdHigh => 11
  | .notTraced => 12
  | .sensorMiss => 13
  | .sensorStray => 14
  | .sensorDouble => 15
  | .sensorLength => 16
  | .driveSlow => 17
  | .driveOvershoot => 18
  | .driveUnsettled => 19
  | .driveRefused => 20
  | .driveFault => 21
  | .driveLinkError => 22
  | .aborted => 23
  | .cancelled => 24

/-- Reason codes of a verdict, 0 for none (R193). -/
def reasonCode : Option Reason → Nat
  | none => 0
  | some .stop => 1
  | some .halt => 2
  | some .positionLost => 3
  | some .reverse => 4
  | some .conflict => 5
  | some .takenBack => 6

def Kind.code : Kind → Nat
  | .chute => 0
  | .coil => 1
  | .eye => 2
  | .drive => 3

/-- Codes of the drive link's commands (R151). -/
def DriveCmd.code : DriveCmd → Byte
  | .step => 0x31#8
  | .base => 0x31#8
  | .query => 0x32#8
  | .stop => 0x33#8
  | .release => 0x34#8

/-- The reasons of a REFUSED reply (R184). -/
inductive RefuseReason where
  | unknownKind
  | badLength
  | queueFull
  | badValue
  | busy
  | overlap
  | claimed
  | noTrial
  | tableFull
  | duplicate
  | notInZone
  | noRecord
  | noEye
  | noTrace
  | noLinkLines
  | gone
  | stopActive
  | notFaulted
  deriving DecidableEq, Repr

/-- Reason codes 0x01 to 0x12 (R184). -/
def RefuseReason.code : RefuseReason → Nat
  | .unknownKind => 0x01
  | .badLength => 0x02
  | .queueFull => 0x03
  | .badValue => 0x04
  | .busy => 0x05
  | .overlap => 0x06
  | .claimed => 0x07
  | .noTrial => 0x08
  | .tableFull => 0x09
  | .duplicate => 0x0A
  | .notInZone => 0x0B
  | .noRecord => 0x0C
  | .noEye => 0x0D
  | .noTrace => 0x0E
  | .noLinkLines => 0x0F
  | .gone => 0x10
  | .stopActive => 0x11
  | .notFaulted => 0x12

end Sys2Proof.Machine
end

