-- ==== Sys2Proof/Machine/Ops.lean ====
section
/-! DEFINITION. The named updates of the state, one per block, and the plain lookups the blocks share. -/

namespace Sys2Proof.Machine

/-- T moves on by the time a command lets pass. -/
def State.after (s : State) (dt : Time) : State := { s with T := s.T + dt }

def State.setLtr (s : State) (x : Ltr) : State := { s with ltr := x }
def State.setLmx (s : State) (x : Lmx) : State := { s with lmx := x }
def State.setZmr (s : State) (x : Zmr) : State := { s with zmr := x }
def State.setTtb (s : State) (x : Ttb) : State := { s with ttb := x }
def State.setFsc (s : State) (x : List FireEntry) : State := { s with fsc := x }
def State.setCdu (s : State) (x : Cdu) : State := { s with cdu := x }
def State.setTru (s : State) (x : Tru) : State := { s with tru := x }
def State.setObu (s : State) (x : Obu) : State := { s with obu := x }
def State.setDlk (s : State) (x : Dlk) : State := { s with dlk := x }
def State.setVlg (s : State) (x : Vlg) : State := { s with vlg := x }
def State.setHlk (s : State) (x : Hlk) : State := { s with hlk := x }

/-- One more free choice has been taken (log entry 3). -/
def State.choose (s : State) : State := { s with choices := s.choices + 1 }

/-- The field line `l`. -/
def State.line (s : State) (l : LineNo) : FieldLine := s.lmx.lines[l]

/-- The trial in a slot, none when the slot is EMPTY. -/
def State.trial (s : State) (k : Slot) : Option Trial := s.ttb.slots[k]

/-- The channel CCn. -/
def State.channel (s : State) (c : Chan) : Channel := s.cdu.channels[c]

def State.setLine (s : State) (l : LineNo) (x : FieldLine) : State :=
  s.setLmx { s.lmx with lines := s.lmx.lines.set l x }

def State.setTrial (s : State) (k : Slot) (t : Option Trial) : State :=
  s.setTtb { s.ttb with slots := s.ttb.slots.set k t }

def State.setChannel (s : State) (c : Chan) (x : Channel) : State :=
  s.setCdu { s.cdu with channels := s.cdu.channels.set c x }

/-- All slots, lowest first. -/
def allSlots : List Slot := List.finRange 48

/-- All channels, lowest first. -/
def allChannels : List Chan := List.finRange 16

/-- All field lines, lowest first. -/
def allLines : List LineNo := List.finRange 48

/-- All trace buffers, lowest first. -/
def allBuffers : List Buf := List.finRange 4

/-- The kind of a target. -/
def Target.kind : Target → Kind
  | .chute _ _ => .chute
  | .coil _ => .coil
  | .eye _ => .eye
  | .drive _ _ _ _ => .drive

/-- The target number of a verdict: the number the trial was loaded with (R42). -/
def Target.index : Target → Nat
  | .chute c _ => c
  | .coil c => c
  | .eye r => r.val
  | .drive r _ _ _ => r.val

/-- Whether a trial is beyond LOADED. -/
def Trial.begun (t : Trial) : Bool := decide (t.state ≠ .loaded)

/-- The age of a trial: how many loads have been accepted since its own, modulo 2^32 (R55). -/
def Ttb.age (b : Ttb) (t : Trial) : Nat := (b.loadCounter - t.loadOrder).toNat

/-- The age of the trial in a slot; an EMPTY slot has none. -/
def Ttb.slotAge (b : Ttb) (k : Slot) : Nat :=
  match b.slots[k] with
  | some t => b.age t
  | none => 0

/-- A slot put into a list of slots that runs from the oldest trial to the youngest. -/
def insertOldest (age : Slot → Nat) (k : Slot) : List Slot → List Slot
  | [] => [k]
  | j :: rest => if age j < age k then k :: j :: rest else j :: insertOldest age k rest

/-- Slots put into load order, oldest trial first. -/
def sortOldest (age : Slot → Nat) : List Slot → List Slot
  | [] => []
  | k :: rest => insertOldest age k (sortOldest age rest)

/-- The occupied slots, oldest trial first (R55). -/
def Ttb.oldestFirst (b : Ttb) : List Slot :=
  sortOldest b.slotAge (allSlots.filter fun k => (b.slots[k]).isSome)

/-- Whether some trial that satisfies `p` is ARMED or ACTIVE. -/
def Ttb.anyBegun (b : Ttb) (p : Trial → Bool) : Bool :=
  allSlots.any fun k =>
    match b.slots[k] with
    | some t => t.begun && p t
    | none => false

/-- How many trials are in state `st`. -/
def Ttb.countState (b : Ttb) (st : TrialState) : Nat :=
  allSlots.countP fun k =>
    match b.slots[k] with
    | some t => decide (t.state = st)
    | none => false

/-- The saturating sum of a counter and 1. -/
def satInc (top n : Nat) : Nat := min top (n + 1)

/-- The lesser of a value and one already held, if any. -/
def optMin (o : Option Int) (x : Int) : Option Int := some (match o with | some y => min y x | none => x)

/-- The greater of a value and one already held, if any. -/
def optMax (o : Option Int) (x : Int) : Option Int := some (match o with | some y => max y x | none => x)

end Sys2Proof.Machine
end

