-- ==== Sys2Proof/Machine/Flags.lean ====
section
/-! DEFINITION. The notice flags, subscriptions and pending notices of the host link (R187, R188). -/

namespace Sys2Proof.Machine

/-- The four notice kinds (R187). -/
inductive NoticeKind where
  | halt
  | track
  | fault
  | log
  deriving DecidableEq, Repr

def NoticeSet.has (n : NoticeSet) : NoticeKind → Bool
  | .halt => n.halt
  | .track => n.track
  | .fault => n.fault
  | .log => n.log

def NoticeSet.put (n : NoticeSet) (k : NoticeKind) (b : Bool) : NoticeSet :=
  match k with
  | .halt => { n with halt := b }
  | .track => { n with track := b }
  | .fault => { n with fault := b }
  | .log => { n with log := b }

/-- The kinds in both sets. -/
def NoticeSet.inter (a b : NoticeSet) : NoticeSet :=
  { halt := a.halt && b.halt, track := a.track && b.track, fault := a.fault && b.fault, log := a.log && b.log }

/-- A set as a mask: bit 0 HALT, bit 1 TRACK, bit 2 FAULT, bit 3 LOG (R185, R188). -/
def NoticeSet.mask (n : NoticeSet) : Nat :=
  (if n.halt then 1 else 0) + (if n.track then 2 else 0) + (if n.fault then 4 else 0) + (if n.log then 8 else 0)

/-- The set of a Subscribe mask; the other bits are ignored (R188). -/
def NoticeSet.ofMask (b : Byte) : NoticeSet :=
  { halt := b.getLsbD 0, track := b.getLsbD 1, fault := b.getLsbD 2, log := b.getLsbD 3 }

/-- A flag is set by its event; going from clear to set, it makes a notice of a subscribed kind pending, unless one is
pending already; setting a set flag changes nothing (R187, R188). -/
def Hlk.raise (h : Hlk) (k : NoticeKind) : Hlk :=
  if h.flags.has k then h
  else { h with flags := h.flags.put k true,
                notices := if h.subs.has k then h.notices.put k true else h.notices }

/-- The flags and OVERRUN as Status and Subscribe carry them: one mask, OVERRUN bit 4 (log entry 15). -/
def Hlk.flagMask (h : Hlk) : Nat := h.flags.mask + (if h.overrun then 16 else 0)

/-- Status clears the flags and OVERRUN that it reports (R190). -/
def Hlk.clearFlags (h : Hlk) : Hlk := { h with flags := .empty, overrun := false }

/-- Subscribe replaces the subscriptions and withdraws the pending notices it leaves out (R188). -/
def Hlk.subscribe (h : Hlk) (subs : NoticeSet) : Hlk := { h with subs := subs, notices := h.notices.inter subs }

/-- A notice flag of the machine is set. -/
def State.raise (s : State) (k : NoticeKind) : State := s.setHlk (s.hlk.raise k)

end Sys2Proof.Machine
end

