-- ==== Sys2Proof/Machine/Bytes.lean ====
section
/-! DEFINITION. Bytes of the host line and of the drive link: numbers to bytes, high byte first (R178), the CRC of a frame
(R178), the check byte of a drive frame (R151), and the bits of a byte on the line (R177). -/

namespace Sys2Proof.Machine

/-- A number as `w` bytes, high byte first (R178). -/
def beBytes : Nat → Nat → List Byte
  | 0, _ => []
  | w + 1, n => BitVec.ofNat 8 (n / 256 ^ w) :: beBytes w n

/-- A signed number as `w` bytes of two's complement (R185). -/
def beSigned (w : Nat) (i : Int) : List Byte := beBytes w (i % (256 ^ w : Nat)).toNat

/-- The number that bytes spell, high byte first. -/
def beValue (bs : List Byte) : Nat := bs.foldl (fun acc b => acc * 256 + b.toNat) 0

/-- The `w`-byte field at offset `off` of a payload. -/
def field (bs : List Byte) (off w : Nat) : Nat := beValue ((bs.drop off).take w)

/-- A field that is on or off is coded 1 or 0 (R185). -/
def boolCode (b : Bool) : Nat := if b then 1 else 0

/-- One byte of a reply. -/
def byte (n : Nat) : List Byte := beBytes 1 n

/-- An absent field is carried as zero bytes of its width (R185). -/
def optBytes (w : Nat) (o : Option Nat) : List Byte := beBytes w (o.getD 0)

/-- One byte into the 16-bit cyclic check, most significant bit first, generator 0x1021 (R178). -/
def crcByte (crc : BitVec 16) (b : Byte) : BitVec 16 :=
  (List.range 8).foldl (fun c _ => if c.msb then (c <<< 1) ^^^ 0x1021#16 else c <<< 1) (crc ^^^ (b.zeroExtend 16 <<< 8))

/-- The cyclic check of R178, initial value 0xFFFF. -/
def crc16 (bs : List Byte) : BitVec 16 := bs.foldl crcByte 0xFFFF#16

/-- The bytes of a frame on the line: start, length, kind, tag, payload, CRC (R178). -/
def Frame.bytes (f : Frame) : List Byte :=
  let checked := BitVec.ofNat 8 f.payload.length :: f.kind :: f.tag :: f.payload
  0xC3#8 :: checked ++ beBytes 2 (crc16 checked).toNat

/-- The number of bytes of a frame, 6 to 246 (R178). -/
def Frame.size (f : Frame) : Nat := f.payload.length + 6

/-- The bits of one byte on the line: start bit, eight data bits least significant first, stop bit (R177). -/
def lineBits (b : Byte) : List Level :=
  Level.low :: (List.range 8).map (fun i => if b.getLsbD i then Level.high else Level.low) ++ [Level.high]

/-- The line rate in baud of a strap code (R177). -/
def baud (strap : Fin 4) : Nat :=
  match strap with
  | 0 => 115200
  | 1 => 460800
  | 2 => 921600
  | 3 => 2000000

/-- The strap code of the two strap levels (R177). -/
def strapCode (bsel1 bsel0 : Level) : Fin 4 :=
  match bsel1, bsel0 with
  | .low, .low => 0
  | .low, .high => 1
  | .high, .low => 2
  | .high, .high => 3

/-- Whether `us` microseconds, counted in whole values of T, can be the line time of `n` bytes of ten bits each: they differ
from it by less than the one microsecond that T resolves (R177, R186). -/
def spansBytes (strap : Fin 4) (n us : Nat) : Bool :=
  decide (us * baud strap < n * 10000000 + baud strap) && decide (n * 10000000 < us * baud strap + baud strap)

/-- The check byte of a drive frame: 255 less the sum of its first three bytes modulo 256 (R151). -/
def driveCheck (a b c : Byte) : Byte := 255#8 - (a + b + c)

end Sys2Proof.Machine
end

