-- ==== Sys2Proof/Machine/Log.lean ====
section
/-! DEFINITION. The verdict log (chapter 10) and the byte layout of a verdict record (R193). -/

namespace Sys2Proof.Machine

/-- The occupied count (R168). -/
def Vlg.occupied (v : Vlg) : Nat := v.records.length

/-- A log place is free (R62, R169). -/
def Vlg.placeFree (v : Vlg) : Bool := decide (v.occupied + v.reserved < 128)

/-- A reservation is granted (R169). -/
def Vlg.reserve (v : Vlg) : Vlg := { v with reserved := v.reserved + 1 }

/-- A verdict is written: its reservation consumed, its serial given, the record joined at the tail (R170). -/
def Vlg.write (v : Vlg) (r : Verdict) : Vlg :=
  { v with records := v.records ++ [{ r with serial := v.nextSerial }], reserved := v.reserved - 1,
           nextSerial := v.nextSerial + 1 }

/-- The first `n` records are removed from the head (R172). -/
def Vlg.remove (v : Vlg) (n : Nat) : Vlg := { v with records := v.records.drop n }

def VerdictFlags.mask (f : VerdictFlags) : Nat :=
  (if f.leadClamped then 1 else 0) + (if f.lateFire then 2 else 0) + (if f.stillBlocked then 4 else 0)
    + (if f.setpointClamped then 8 else 0) + (if f.releaseFailed then 16 else 0)

/-- The parts-present mask (R193). -/
def Verdict.partsMask (r : Verdict) : Nat :=
  (if r.fire.isSome then 1 else 0) + (if r.item.isSome then 2 else 0) + (if r.coil.isSome then 4 else 0)
    + (if r.sensor.isSome then 8 else 0) + (if r.drive.isSome then 16 else 0)

/-- A presence byte: bit n is set when the n-th field that may be absent is present (R185). -/
def presence : List Bool → Nat
  | [] => 0
  | b :: rest => boolCode b + 2 * presence rest

/-- FIRE, 13 bytes (R193). -/
def FirePart.bytes (p : FirePart) : List Byte :=
  beBytes 4 p.tf.toNat ++ beBytes 2 p.tray ++ beBytes 3 p.position ++ beBytes 2 p.lead ++ beBytes 2 p.late

/-- ITEM, 8 bytes (R193). -/
def ItemPart.bytes (p : ItemPart) : List Byte :=
  byte (presence [p.arrival.isSome, p.dwell.isSome]) ++ optBytes 3 p.arrival ++ optBytes 3 p.dwell ++ byte p.extra

/-- COIL, 10 bytes (R193). -/
def CoilPart.bytes (p : CoilPart) : List Byte :=
  byte p.outcome.code ++ byte (match p.buffer with | some b => b.val | none => 255)
    ++ byte (presence [p.dip.isSome, p.holdMean.isSome]) ++ optBytes 3 p.dip ++ beBytes 2 p.peak ++ optBytes 2 p.holdMean

/-- SENSOR, 19 bytes (R193). -/
def SensorPart.bytes (p : SensorPart) : List Byte :=
  byte p.hits ++ byte p.misses ++ byte p.extras ++ byte p.strays ++ byte (presence [p.dMin.isSome, p.lenMin.isSome])
    ++ beSigned 2 (p.dMin.getD 0) ++ beSigned 2 (p.dMax.getD 0) ++ beSigned 3 p.dSum
    ++ beSigned 3 (p.lenMin.getD 0) ++ beSigned 3 (p.lenMax.getD 0) ++ byte p.lenFailures

/-- DRIVE, 15 bytes (R193). -/
def DrivePart.bytes (p : DrivePart) : List Byte :=
  byte p.index ++ beBytes 2 p.setpoint ++ beBytes 2 p.v0 ++ beBytes 2 p.peak ++ beBytes 2 p.rise
    ++ byte (presence [p.settle.isSome, p.lastStatus.isSome]) ++ optBytes 2 p.settle
    ++ byte (match p.lastStatus with | some x => x.1.toNat | none => 0)
    ++ beBytes 2 (match p.lastStatus with | some x => x.2 | none => 0)

/-- The length of a record: 16 bytes and its parts (R193). -/
def Verdict.size (r : Verdict) : Nat :=
  16 + (if r.fire.isSome then 13 else 0) + (if r.item.isSome then 8 else 0) + (if r.coil.isSome then 10 else 0)
    + (if r.sensor.isSome then 19 else 0) + (if r.drive.isSome then 15 else 0)

/-- The bytes of an optional part, none when it is absent. -/
def partBytes {α : Type} (f : α → List Byte) : Option α → List Byte
  | none => []
  | some x => f x

/-- The bytes of a verdict record (R193). -/
def Verdict.bytes (r : Verdict) : List Byte :=
  byte r.size ++ beBytes 2 r.serial.toNat ++ beBytes 2 r.number ++ byte r.kind.code ++ byte r.outcome.code
    ++ byte (reasonCode r.reason) ++ byte r.flags.mask ++ beBytes 2 r.target ++ beBytes 4 r.tArm.toNat
    ++ byte r.partsMask
    ++ partBytes FirePart.bytes r.fire ++ partBytes ItemPart.bytes r.item ++ partBytes CoilPart.bytes r.coil
    ++ partBytes SensorPart.bytes r.sensor ++ partBytes DrivePart.bytes r.drive

/-- How many records a ReadLog takes: from the head, until the count, the ring or the room in the payload runs out (R172). -/
def takeCount : Nat → Nat → List Verdict → Nat
  | 0, _, _ => 0
  | _, _, [] => 0
  | n + 1, room, r :: rest => if r.size ≤ room then takeCount n (room - r.size) rest + 1 else 0

end Sys2Proof.Machine
end

