-- ==== Sys2Proof/Machine/HostLink.lean ====
section
/-! DEFINITION. The host link (chapter 11): the receive hunter, the request queue and the busy list, the transmitter, and the
place of a reply. The payloads stand in Operands.lean and Replies.lean. -/

namespace Sys2Proof.Machine

/-! ## The receive hunter -/

/-- The start byte of a frame (R178). -/
def startByte : Byte := 0xC3#8

/-- The hunter state (R179), a view of the held bytes. -/
inductive HunterState where
  | hunt
  | length
  | kind
  | tag
  | payload
  | crcHigh
  | crcLow
  deriving DecidableEq, Repr

/-- Where the hunter stands after the bytes it holds (the table of R179). -/
def hunterState (held : List Byte) : HunterState :=
  match held with
  | [] => .hunt
  | [_] => .length
  | [_, _] => .kind
  | [_, _, _] => .tag
  | _ :: len :: _ :: _ :: rest =>
    if rest.length < len.toNat then .payload
    else if rest.length = len.toNat then .crcHigh
    else .crcLow

/-- What the bytes from a start byte on amount to (R178 to R180). -/
inductive Parse where
  /-- the frame is not yet whole -/
  | more
  /-- the length is above 240, or the CRC does not check -/
  | discard
  /-- a complete frame of `size` bytes -/
  | frame (f : Frame) (size : Nat)
  deriving DecidableEq, Repr

/-- The frame that bytes beginning with a start byte hold (R178, R180). -/
def parseFrame : List Byte → Parse
  | _ :: len :: rest =>
    if 240 < len.toNat then .discard
    else
      match rest with
      | kind :: tag :: body =>
        if body.length < len.toNat + 2 then .more
        else if beValue ((body.drop len.toNat).take 2) = (crc16 (len :: kind :: tag :: body.take len.toNat)).toNat then
          .frame { kind := kind, tag := tag, payload := body.take len.toNat } (len.toNat + 6)
        else .discard
      | [_] => .more
      | [] => .more
  | [_] => .more
  | [] => .more

/-- The hunter's examination of bytes in order (R179, R180): the frames it completes, and the bytes it then holds. `skip` is
how many bytes belong to the frame just found. A discarded frame is examined again from the byte after its start byte; with
`flush`, so is a frame left incomplete, whose gap has run out. -/
def hunt (flush : Bool) : Nat → List (Byte × Time) → List Frame × List (Byte × Time)
  | _, [] => ([], [])
  | skip + 1, _ :: rest => hunt flush skip rest
  | 0, x :: rest =>
    if x.1 = startByte then
      match parseFrame ((x :: rest).map Prod.fst) with
      | .frame f size => let r := hunt flush (size - 1) rest; (f :: r.1, r.2)
      | .discard => hunt flush 0 rest
      | .more => if flush then hunt flush 0 rest else ([], x :: rest)
    else hunt flush 0 rest

/-! ## The request queue and the busy list -/

/-- A complete frame joins the queue of 4, or the busy list of 8, or is dropped with OVERRUN (R181). -/
def Hlk.accept (h : Hlk) (f : Frame) : Hlk :=
  if h.queue.length < 4 then { h with queue := h.queue ++ [f] }
  else if h.busy.length < 8 then { h with busy := h.busy ++ [(f.tag, f.kind)] }
  else { h with overrun := true }

/-- The held bytes after an examination, and the frames it completed taken in order (R180, R181). -/
def Hlk.examined (h : Hlk) (r : List Frame × List (Byte × Time)) : Hlk :=
  r.1.foldl Hlk.accept { h with held := r.2 }

/-- Whether the gap of the frame in progress has run out at T = `t`: more than 2,000 µs since its last held byte (R179). -/
def Hlk.gapOver (h : Hlk) (t : Time) : Bool :=
  match h.held.getLast? with
  | some x => decide (2000 < (t - x.2).toNat)
  | none => false

/-- The frame in progress is abandoned and its bytes examined again (R179, R180). -/
def Hlk.abandon (h : Hlk) : Hlk := h.examined (hunt true 0 (h.held.drop 1))

/-- A byte arrives at T = `t` (R179): after a gap that has run out, or as a line error, or as the next byte. -/
def Hlk.receive (h : Hlk) (t : Time) (b : Byte) (stopBit : Level) : Hlk :=
  let h1 := if h.gapOver t then h.abandon else h
  match stopBit with
  | .low => { h1 with held := [] }
  | .high => h1.examined (hunt false 0 (h1.held ++ [(b, t)]))

/-! ## The transmitter -/

/-- A REFUSED frame (R184). -/
def refusedFrame (tag kind : Byte) (r : RefuseReason) : Frame :=
  { kind := 0xFE#8, tag := tag, payload := [kind, BitVec.ofNat 8 r.code] }

/-- The kind of a notice (R187). -/
def NoticeKind.frameKind : NoticeKind → Byte
  | .halt => 0xF1#8
  | .track => 0xF2#8
  | .fault => 0xF3#8
  | .log => 0xF4#8

/-- The channels in FAULT as a set, bit n for CCn (R187). -/
def State.faultMask (s : State) : Nat :=
  (allChannels.map fun c => if (s.channel c).state = .fault then 2 ^ c.val else 0).sum

/-- The payload of a notice, from the state as the transmitter takes it (R187). -/
def State.noticePayload (s : State) : NoticeKind → List Byte
  | .halt =>
    byte (presence [s.ttb.run.cause.isSome]) ++ byte s.ttb.run.code
      ++ optBytes 1 (s.ttb.run.cause.map HaltCause.code)
  | .track => byte s.ltr.trust.code ++ beBytes 3 s.ltr.H
  | .fault => beBytes 2 s.faultMask ++ byte s.dlk.state.code
  | .log => byte s.vlg.records.length ++ byte s.vlg.reserved

/-- A notice frame carries tag 0 (R178, R187). -/
def State.noticeFrame (s : State) (k : NoticeKind) : Frame :=
  { kind := k.frameKind, tag := 0, payload := s.noticePayload k }

/-- The first pending notice in the order of R186. -/
def NoticeSet.first (n : NoticeSet) : Option NoticeKind :=
  if n.halt then some .halt
  else if n.track then some .track
  else if n.fault then some .fault
  else if n.log then some .log
  else none

/-- The transmission of a frame begins. -/
def State.send (s : State) (f : Frame) (h : Hlk) : State := s.setHlk { h with tx := some { frame := f, start := s.T } }

/-- The transmitter takes the first waiting item in the order of R186. The Reset reply, once taken, is being sent (R191). -/
def State.takeItem (s : State) : State :=
  match s.hlk.busy with
  | x :: rest => s.send (refusedFrame x.1 x.2 .queueFull) { s.hlk with busy := rest }
  | [] =>
    match s.hlk.reply with
    | some f =>
      s.send f { s.hlk with reply := none,
                            resetPhase := if s.hlk.resetPhase = .replyWaiting then .replySending else s.hlk.resetPhase }
    | none =>
      match s.hlk.notices.first with
      | some k => s.send (s.noticeFrame k) { s.hlk with notices := s.hlk.notices.put k false }
      | none => s

/-- The transmitter at the end of an event: idle, it takes an item when one waits (R186). After the Reset reply's last stop
bit it takes nothing more (R191). -/
def State.kick (s : State) : State :=
  if s.hlk.tx.isNone ∧ s.hlk.resetPhase ≠ .due then s.takeItem else s

/-- The last stop bit of the frame in transmission (R186); after the Reset reply the SOFT reset is due (R191). -/
def Hlk.endTransmission (h : Hlk) : Hlk :=
  { h with tx := none, resetPhase := if h.resetPhase = .replySending then .due else h.resetPhase }

/-- Whether T may be the last stop bit of the frame in transmission (R177, R186). -/
def State.transmitDone (s : State) : Bool :=
  match s.hlk.tx with
  | some x => spansBytes s.hlk.strap x.frame.size (s.T - x.start).toNat
  | none => false

/-! ## The handler -/

/-- The request the handler takes and the queue after it: IDLE, the reply slot empty, no Reset accepted (R182, R191). -/
def Hlk.nextRequest (h : Hlk) : Option (Frame × List Frame) :=
  match h.handler, h.reply, h.resetPhase, h.queue with
  | .idle, none, .off, f :: rest => some (f, rest)
  | _, _, _, _ => none

/-- What a block answers to a request: the state it leaves and its reply's payload, a refusal, or, for ReadAnalog, a reply
to follow (R182). -/
inductive Answer where
  | reply (s : State) (payload : List Byte)
  | refused (r : RefuseReason)
  | waiting (s : State)
  deriving DecidableEq, Repr

/-- A frame is placed in the reply slot (R182). -/
def State.place (s : State) (f : Frame) : State := s.setHlk { s.hlk with reply := some f }

/-- The reply frame of a request: its kind plus 0x80, and its tag (R178). -/
def replyFrame (f : Frame) (payload : List Byte) : Frame := { kind := f.kind + 0x80#8, tag := f.tag, payload := payload }

/-- The request `f` leaves the queue, which then holds `rest` (R181). -/
def State.taken (s : State) (rest : List Frame) : State := s.setHlk { s.hlk with queue := rest }

/-- The block's answer is placed; a refusal leaves the state `s` of every block as it was (R182, R184). -/
def State.answer (s : State) (f : Frame) : Answer → State
  | .reply s' payload => s'.place (replyFrame f payload)
  | .refused r => s.place (refusedFrame f.tag f.kind r)
  | .waiting s' => s'.setHlk { s'.hlk with handler := .waiting f.tag }

/-- The handler serves a request of `kind` with `len` payload bytes, when one stands at the head of its queue (R182, R183).
When none does, nothing occurs, T included (log entry 2). -/
def serve (kind : Byte) (len : Nat) (block : List Byte → State → Answer) (dt : Time) (s : State) :
    Host.Outcome State Fault Refusal :=
  let s1 := s.after dt
  match s1.hlk.nextRequest with
  | none => .next s
  | some (f, rest) =>
    if f.kind = kind then
      let s2 := s1.taken rest
      .next (s2.answer f (if f.payload.length = len then block f.payload s2 else .refused .badLength)).kick
    else .next s

/-- An event of the field, of time or of the line, at the time `dt` after the command before it: when the state says that it
cannot occur then, nothing occurs, T included (log entry 2). -/
def timed (due : State → Bool) (effect : State → State) (dt : Time) (s : State) : Host.Outcome State Fault Refusal :=
  if due (s.after dt) then .next (effect (s.after dt)).kick else .next s

end Sys2Proof.Machine
end

