-- ==== Sys2Proof/Machine/Lines.lean ====
section
/-! DEFINITION. The line matrix (chapter 2): the overrides of a line's function, its filter, the STOP condition, the safe
levels, and the checks and the effect of SetLine on the matrix. -/

namespace Sys2Proof.Machine

/-- A line is active when its accepted level equals its active level (R21). -/
def FieldLine.active (x : FieldLine) : Bool := decide (x.accepted = x.cfg.active)

/-- The effective direction (R22). -/
def FieldLine.effDir (x : FieldLine) : LineDir :=
  match x.cfg.fn with
  | .unused => x.cfg.dir
  | .general => x.cfg.dir
  | .linkRequest => .outward
  | .home => .inward
  | .eye => .inward
  | .stop => .inward
  | .linkBusy => .inward

/-- The effective pull-up: applied only while the effective direction is IN, and forced off on STOP (R22). -/
def FieldLine.effPull (x : FieldLine) : Bool :=
  decide (x.effDir = .inward) && decide (x.cfg.fn ≠ .stop) && x.cfg.pullUp

/-- The level the line drives, none while its effective direction is IN (R22, R24). -/
def FieldLine.driven (x : FieldLine) (asserted : Bool) : Option Level :=
  match x.effDir with
  | .inward => none
  | .outward =>
    match x.cfg.fn with
    | .linkRequest => some (if asserted then x.cfg.active else x.cfg.active.other)
    | _ => some x.cfg.output

/-- Whether the next sample that differs from the accepted level brings the filter count to g + 1 (R27). -/
def FieldLine.ripe (x : FieldLine) : Bool := x.started && decide (x.cfg.g ≤ x.c)

/-- Whether a sample is an accepted edge (R27). -/
def FieldLine.isEdge (x : FieldLine) (v : Level) : Bool := x.ripe && decide (v ≠ x.accepted)

/-- The line after an accepted edge: the differing level is accepted and c is 0 (R27). -/
def FieldLine.accept (x : FieldLine) : FieldLine := { x with accepted := x.accepted.other, c := 0 }

/-- The line after a sample that is no accepted edge: the first after a reset becomes the accepted level, an equal one
clears c, a differing one adds 1 (R27, R30). -/
def FieldLine.sample (x : FieldLine) (v : Level) : FieldLine :=
  if x.started then
    if v = x.accepted then { x with c := 0 } else { x with c := x.c + 1 }
  else { x with accepted := v, started := true, c := 0 }

/-- The raw time of an edge accepted at T with filter length g: T − g − 2 modulo 2^32 (R28). -/
def rawTime (t : Time) (g : Nat) : Time := t - BitVec.ofNat 32 (g + 2)

/-- The STOP condition: a line holds STOP and is active (R31, R32). -/
def Lmx.stopHolds (x : Lmx) : Bool :=
  match x.stopHolder with
  | some l => (x.lines[l]).active
  | none => false

/-- Whether the line that holds LINK_BUSY is active (R154). -/
def Lmx.busyActive (x : Lmx) : Bool :=
  match x.busyHolder with
  | some l => (x.lines[l]).active
  | none => false

/-- The recorded holder of a single-holder function (R25). -/
def Lmx.holderOf (x : Lmx) : LineFn → Option LineNo
  | .home => x.homeHolder
  | .stop => x.stopHolder
  | .linkRequest => x.requestHolder
  | .linkBusy => x.busyHolder
  | .unused => none
  | .general => none
  | .eye => none

/-- A line gives up the functions it held (R25). -/
def Lmx.dropHolder (x : Lmx) (l : LineNo) : Lmx :=
  { x with homeHolder := if x.homeHolder = some l then none else x.homeHolder,
           stopHolder := if x.stopHolder = some l then none else x.stopHolder,
           requestHolder := if x.requestHolder = some l then none else x.requestHolder,
           busyHolder := if x.busyHolder = some l then none else x.busyHolder }

/-- A line takes a function; LMX records the holder of each of the four (R25). -/
def Lmx.takeHolder (x : Lmx) (l : LineNo) : LineFn → Lmx
  | .home => { x with homeHolder := some l }
  | .stop => { x with stopHolder := some l }
  | .linkRequest => { x with requestHolder := some l }
  | .linkBusy => { x with busyHolder := some l }
  | .unused => x
  | .general => x
  | .eye => x

/-- A line under a new base configuration: a change of g clears c, and the accepted level is kept (R30, R36). -/
def FieldLine.configure (x : FieldLine) (cfg : LineConfig) : FieldLine :=
  { x with cfg := cfg, c := if cfg.g = x.cfg.g then x.c else 0 }

/-- The matrix after an accepted SetLine: the configuration replaced and the holders updated (R25, R36). -/
def Lmx.configure (x : Lmx) (l : LineNo) (cfg : LineConfig) : Lmx :=
  ({ x with lines := x.lines.set l ((x.lines[l]).configure cfg) }.dropHolder l).takeHolder l cfg.fn

/-- CLAIMED: the function has a recorded holder that is a different line (R25, R34). -/
def Lmx.claimed (x : Lmx) (l : LineNo) (fn : LineFn) : Bool :=
  match x.holderOf fn with
  | some h => decide (h ≠ l)
  | none => false

/-- Whether a function is one of the two handover functions. -/
def LineFn.handover (f : LineFn) : Bool := decide (f = .linkRequest) || decide (f = .linkBusy)

/-- Whether the link holds or seeks a drive: CHECKING, OWNED or RELEASING (R35, R150). -/
def LinkState.engaged : LinkState → Bool
  | .idle => false
  | .checking => true
  | .owned => true
  | .releasing => true
  | .fault => false

/-- The conditions of R35 under which SetLine is refused with BUSY. -/
def State.setLineBusy (s : State) (l : LineNo) (cfg : LineConfig) : Bool :=
  let old := (s.line l).cfg
  let eyeBusy := decide (old.fn = .eye) && (s.ttb.lineHolder[l]).isSome
    && (decide (cfg.fn ≠ old.fn) || decide (cfg.dir ≠ old.dir) || decide (cfg.active ≠ old.active))
  let homeBusy := (decide (cfg.fn = .home) != decide (old.fn = .home))
    && s.ttb.anyBegun fun t => decide (t.target.kind = .chute) || decide (t.target.kind = .eye)
  let linkBusy := s.dlk.state.engaged && decide (cfg ≠ old)
    && (old.fn.handover || (cfg.fn.handover && decide (cfg.fn ≠ old.fn)))
  eyeBusy || homeBusy || linkBusy

/-- A general output takes its safe level (R33). -/
def FieldLine.makeSafe (x : FieldLine) : FieldLine :=
  if (x.cfg.fn = .unused ∨ x.cfg.fn = .general) ∧ x.cfg.dir = .outward then
    { x with cfg := { x.cfg with output := x.cfg.safe } }
  else x

/-- The safe levels on the entry into HALTED (R33). -/
def Lmx.applySafe (x : Lmx) : Lmx := { x with lines := x.lines.map FieldLine.makeSafe }

/-- DLK sets or clears the LINK_REQUEST assertion (R24). -/
def State.assertRequest (s : State) (b : Bool) : State := s.setLmx { s.lmx with asserted := b }

end Sys2Proof.Machine
end

