-- ==== Sys2Proof/Machine/Tracker.lean ====
section
/-! DEFINITION. The loop tracker's own part of each event (chapter 1): counts, windows, home offset, loss, geometry, and the
arithmetic of trays and pass points. What the other blocks do with the events it publishes stands in Endings.lean. -/

namespace Sys2Proof.Machine

/-- The loop length L = N × P (R1). -/
def Ltr.L (l : Ltr) : Nat := l.N * l.P

/-- The next pair of the forward sequence of ENCA, ENCB (R4). -/
def nextPair : Level × Level → Level × Level
  | (.low, .low) => (.high, .low)
  | (.high, .low) => (.high, .high)
  | (.high, .high) => (.low, .high)
  | (.low, .high) => (.low, .low)

/-- The pair before it in the forward sequence (R4). -/
def prevPair : Level × Level → Level × Level
  | (.low, .low) => (.low, .high)
  | (.high, .low) => (.low, .low)
  | (.high, .high) => (.high, .low)
  | (.low, .high) => (.high, .high)

/-- The pair with both channels changed (R4, R6). -/
def oppositePair (p : Level × Level) : Level × Level := (p.1.other, p.2.other)

/-- What a decoder sample shows against the reference (the table of R4). -/
inductive DecoderStep where
  | still
  | forward
  | backward
  | illegal
  deriving DecidableEq, Repr

/-- The decoder table of R4: one channel changed in the forward sense, in the backward sense, both, or none. -/
def decoderStep (ref sample : Level × Level) : DecoderStep :=
  if sample = ref then .still
  else if sample = nextPair ref then .forward
  else if sample = prevPair ref then .backward
  else .illegal

/-- The forward move of R7 on the reverse excursion, of R5 on H and n. -/
def Ltr.forward (l : Ltr) : Ltr :=
  { l with H := (l.H + 1) % l.L, n := l.n + 1, R := l.R - 1, ref := l.ref.map nextPair }

/-- The backward move of R5 on H and n, and of R7 on the reverse excursion, which saturates at 65,535. -/
def Ltr.backward (l : Ltr) : Ltr :=
  { l with H := (l.H + l.L - 1) % l.L, n := l.n - 1, R := satInc 65535 l.R, ref := l.ref.map prevPair }

/-- A backward count that has brought R to P/2 while SYNCED is a cause of loss (R7, R14). -/
def Ltr.excursionLoss (l : Ltr) : Bool := decide (l.trust = .synced) && decide (l.R = l.P / 2)

/-- An illegal transition moves the decoder reference alone (R6). -/
def Ltr.illegal (l : Ltr) : Ltr := { l with ref := l.ref.map oppositePair }

/-- The first decoder sample after a reset becomes the reference (R4). -/
def Ltr.firstSample (l : Ltr) (a b : Level) : Ltr := { l with ref := some (a, b) }

/-- A window close: V and direction from n, a new window, and the next close 4,096 µs on (R8, R9). -/
def Ltr.closeWindow (l : Ltr) : Ltr :=
  { l with V := if 0 < l.n then min 65535 l.n.toNat else 0,
           dir := if 0 ≤ l.n then .forward else .reverse,
           n := 0, nextClose := l.nextClose + 4096 }

/-- The next multiple of 4,096 µs after T (R8, R19). -/
def nextWindow (t : Time) : Time := BitVec.ofNat 32 ((t.toNat / 4096 + 1) * 4096)

/-- The signed fold of a count c in a span M (Conventions). `c < M/2` is read as 2c < M, which keeps the result in
[−M/2, M/2) for an odd M as well (log entry 16). -/
def signedFold (c m : Nat) : Int := if 2 * c < m then (c : Int) else (c : Int) - (m : Int)

/-- The offset d of a home edge (R12). -/
def Ltr.homeOffset (l : Ltr) : Int := signedFold l.H l.L

/-- A sync (R11). -/
def Ltr.sync (l : Ltr) : Ltr := { l with H := 0, R := 0, lastCorrection := 0, trust := .synced }

/-- A correction: H is set to 0 and d is kept as last correction (R12, R13). -/
def Ltr.correct (l : Ltr) : Ltr := { l with H := 0, lastCorrection := l.homeOffset }

/-- A home edge beyond HT keeps H and stores d (R12, R13); the loss follows. -/
def Ltr.missHome (l : Ltr) : Ltr := { l with lastCorrection := l.homeOffset }

/-- The entry into LOST; H is not moved by it (R14). -/
def Ltr.lose (l : Ltr) : Ltr := { l with trust := .lost }

/-- The entry into UNSYNCED by a change of the HOME function (R15). -/
def Ltr.unsync (l : Ltr) : Ltr := { l with trust := .unsynced }

/-- An accepted SetLoop (R2, R3): HT is clamped to P/4. -/
def Ltr.setLoop (l : Ltr) (n p ht : Nat) : Ltr :=
  { l with N := n, P := p, HT := min ht (p / 4), H := 0, R := 0, lastCorrection := 0, trust := .unsynced }

/-- The distance ahead of a position, D(x) = (x − H) mod L (Conventions, R17). -/
def Ltr.ahead (l : Ltr) (x : Nat) : Nat := (x + l.L - l.H) % l.L

/-- The least integer not below the quotient. -/
def ceilDiv (a b : Nat) : Nat := (a + b - 1) / b

/-- The pass point of tray k at X (R17). -/
def Ltr.passPoint (l : Ltr) (x k : Nat) : Nat := (x + k * l.P) % l.L

/-- The next pass at guard G of X: the tray and its pass point (R18). -/
def Ltr.nextPass (l : Ltr) (x g : Nat) : Nat × Nat :=
  let base := l.ahead x
  let r := (g + l.L - base) % l.L
  let k := ceilDiv r l.P % l.N
  (k, l.passPoint x k)

end Sys2Proof.Machine
end

