-- ==== Sys2Proof/Machine/Records.lean ====
section
/-! DEFINITION. The zone windows and the target records (chapter 3): lookups, ranges, the fit against the loop, records in
use, and the moves of the windows. -/

namespace Sys2Proof.Machine

/-- Whether chute `c` is in the window with base `b` (R39). -/
def inWindow (b c : Nat) : Bool := decide (b ≤ c) && decide (c ≤ b + 7)

/-- The channel that serves a chute, none when it is not in zone (R39). -/
def Zmr.channelOf (z : Zmr) (c : Nat) : Option Chan :=
  if inWindow z.baseA c then some (Fin.ofNat 16 (c - z.baseA))
  else if inWindow z.baseB c then some (Fin.ofNat 16 (8 + (c - z.baseB)))
  else none

/-- The chute that a channel serves (R39). -/
def Zmr.chuteOf (z : Zmr) (n : Chan) : Nat := if n.val < 8 then z.baseA + n.val else z.baseB + (n.val - 8)

/-- The chute record of a chute: that of its channel, set for that same chute number (R43). -/
def Zmr.chuteRecord (z : Zmr) (c : Nat) : Option (Chan × ChuteRecord) :=
  match z.channelOf c with
  | none => none
  | some n =>
    match z.chutes[n] with
    | none => none
    | some r => if r.chute = c then some (n, r) else none

/-- A chute record fits the loop (R52). -/
def ChuteRecord.fits (r : ChuteRecord) (l : Ltr) : Bool := decide (r.S < l.L)

/-- An eye record fits the loop (R52). -/
def EyeRecord.fits (r : EyeRecord) (l : Ltr) : Bool :=
  decide (r.X < l.L) && decide (r.tol ≤ l.P / 2)
    && match r.expected with
       | none => true
       | some e => decide (e ≤ l.P) && decide (r.lenTol ≤ l.P)

/-- The ranges of a coil profile (R45). -/
def Profile.inRange (p : Profile) : Bool :=
  decide (1 ≤ p.pullDuty ∧ p.pullDuty ≤ 256) && decide (1 ≤ p.pullPeriods ∧ p.pullPeriods ≤ 65535)
    && decide (p.holdDuty ≤ 256) && decide (p.holdPeriods ≤ 65535) && decide (1 ≤ p.dead ∧ p.dead ≤ 255)
    && decide (1 ≤ p.returnDuty ∧ p.returnDuty ≤ 256) && decide (p.returnPeriods ≤ 65535)
    && decide (p.recover ≤ 65535) && decide (1 ≤ p.trip ∧ p.trip ≤ 4095)

/-- The ranges of the trace fields (R46). -/
def TraceFields.inRange (f : TraceFields) : Bool :=
  decide (f.m = 1 ∨ f.m = 2 ∨ f.m = 4 ∨ f.m = 8) && decide (1 ≤ f.theta ∧ f.theta ≤ 4095) && decide (f.cMin ≤ 4095)
    && decide (f.dipMin ≤ f.dipMax ∧ f.dipMax ≤ 1048575) && decide (f.holdLo ≤ f.holdHi ∧ f.holdHi ≤ 4095)

/-- Check 1 of SetChute: every field in its range, the dependent ranges met, S below L (R44 to R47). -/
def ChuteRecord.inRange (r : ChuteRecord) (l : Ltr) : Bool :=
  decide (r.chute ≤ 1023) && decide (r.S < l.L) && decide (r.tau ≤ 65535)
    && decide (r.wOpen ≤ r.wClose ∧ r.wClose + r.wLate ≤ 16777215) && r.profile.inRange && r.trace.inRange

/-- Check 1 of SetEye: every field in its range; the length tolerance is ignored without an expected length (R48). -/
def EyeRecord.inRange (r : EyeRecord) (l : Ltr) : Bool := r.fits l && decide (1 ≤ r.passes ∧ r.passes ≤ 255)

/-- Check 1 of SetDrive (R49). -/
def DriveRecord.inRange (r : DriveRecord) : Bool :=
  decide (r.base ≤ r.maximum) && decide (1 ≤ r.checkMs ∧ r.checkMs ≤ 255) && decide (1 ≤ r.riseLimit ∧ r.riseLimit ≤ 1000)

/-- The chute a trial targets, for CHUTE and COIL (R40, R50). -/
def Target.chute? : Target → Option Nat
  | .chute c _ => some c
  | .coil c => some c
  | .eye _ => none
  | .drive _ _ _ _ => none

/-- A chute record is in use: an ARMED or ACTIVE trial targets its chute (R50). -/
def Ttb.chuteInUse (b : Ttb) (c : Nat) : Bool := b.anyBegun fun t => decide (t.target.chute? = some c)

/-- An eye record is in use (R50). -/
def Ttb.eyeInUse (b : Ttb) (k : Fin 16) : Bool := b.anyBegun fun t => decide (t.target = .eye k)

/-- A drive record is in use (R50). -/
def Ttb.driveInUse (b : Ttb) (k : Fin 8) : Bool :=
  b.anyBegun fun t =>
    match t.target with
    | .drive r _ _ _ => decide (r = k)
    | _ => false

/-- Some occupied slot holds a CHUTE or COIL trial whose chute lies in the window with base `w` (R40). -/
def Ttb.targetsWindow (b : Ttb) (w : Nat) : Bool :=
  allSlots.any fun k =>
    match b.slots[k] with
    | some t =>
      match t.target.chute? with
      | some c => inWindow w c
      | none => false
    | none => false

/-- The two windows share a chute: the bases differ by less than 8 (R40). -/
def windowsOverlap (a b : Nat) : Bool := decide (a < b + 8) && decide (b < a + 8)

/-- Check 3 of SetZone: a moved window, as it stands, holds a target of an occupied slot (R40). -/
def State.zoneBusy (s : State) (a b : Nat) : Bool :=
  (decide (a ≠ s.zmr.baseA) && s.ttb.targetsWindow s.zmr.baseA)
    || (decide (b ≠ s.zmr.baseB) && s.ttb.targetsWindow s.zmr.baseB)

/-- An accepted SetZone: the chute records of a moved window become undefined (R41). -/
def Zmr.setZone (z : Zmr) (a b : Nat) : Zmr :=
  { z with baseA := a, baseB := b,
           chutes := Vector.ofFn fun n : Chan =>
             if (n.val < 8 ∧ a ≠ z.baseA) ∨ (8 ≤ n.val ∧ b ≠ z.baseB) then none else z.chutes[n] }

end Sys2Proof.Machine
end

