-- ==== Sys2Proof/Machine/Scheduler.lean ====
section
/-! DEFINITION. The fire scheduler's own arithmetic (chapter 5): lead and guard, aiming an entry, crossing and remaining
distance, and what each tracker event does to one entry. The fire's effect on other blocks stands in Table.lean. -/

namespace Sys2Proof.Machine

/-- The lead for a latency at a speed, rounded half up and clamped at 4·P, with LEAD_CLAMPED (R79). -/
def leadFor (v tau p : Nat) : Nat × Bool :=
  let q := (v * tau + 2048) / 4096
  if 4 * p < q then (4 * p, true) else (q, false)

/-- The guard of a lead (R80). -/
def guardFor (lead p : Nat) : Nat := lead + p / 4

/-- The fire point of a pass point and a lead (R81). -/
def Ltr.firePoint (l : Ltr) (q lead : Nat) : Nat := (q + l.L - lead) % l.L

/-- The crossing distance C(F) of a fire point (R83). -/
def Ltr.crossing (l : Ltr) (f : Nat) : Nat := if l.ahead f = 0 then l.L else l.ahead f

/-- The remaining distance of an entry: C(F) + lead + skip × L (R83). -/
def FireEntry.remaining (e : FireEntry) (l : Ltr) : Nat := l.crossing e.F + e.lead + e.skip * l.L

/-- The skip for a remaining distance and a lead (R83). -/
def Ltr.skipFor (l : Ltr) (remaining lead : Nat) : Nat := if l.L + lead < remaining then 1 else 0

/-- The tray, the pass point and the remaining distance chosen at arming (R81, R82). -/
def Ltr.aim (l : Ltr) (s : Nat) (tray : Option Nat) (lead : Nat) : Nat × Nat × Nat :=
  let g := guardFor lead l.P
  match tray with
  | none =>
    let kq := l.nextPass s g
    (kq.1, kq.2, l.ahead kq.2)
  | some k =>
    let q := l.passPoint s k
    (k, q, if g ≤ l.ahead q then l.ahead q else l.ahead q + l.L)

/-- The entry added when a CHUTE trial arms (R77, R81 to R83). -/
def Ltr.newEntry (l : Ltr) (slot : Slot) (number : Nat) (channel : Chan) (s tau : Nat) (tray : Option Nat) : FireEntry :=
  let lc := leadFor l.V tau l.P
  let a := l.aim s tray lc.1
  { slot := slot, number := number, channel := channel, S := s, tray := a.1, Q := a.2.1, tau := tau, lead := lc.1,
    F := l.firePoint a.2.1 lc.1, skip := l.skipFor a.2.2 lc.1, clamped := lc.2 }

/-- What an event does to one entry: it stays, perhaps changed, or it fires with the given late amount and flag. -/
inductive EntryStep where
  | keep (e : FireEntry)
  | fire (late : Nat) (lateFire : Bool) (lead : Nat) (clamped : Bool)
  deriving DecidableEq, Repr

/-- A forward count that has brought H to `h` (R84). -/
def FireEntry.onForward (e : FireEntry) (h : Nat) : EntryStep :=
  if h = e.F then
    if e.skip = 0 then .fire 0 false e.lead e.clamped else .keep { e with skip := 0 }
  else .keep e

/-- A backward count from H = `h` (R85). -/
def FireEntry.onBackward (e : FireEntry) (h : Nat) : EntryStep :=
  if h = e.F then .keep { e with skip := satInc 1 e.skip } else .keep e

/-- A FORWARD window close, with the tracker as the close left it (R86, R87). -/
def FireEntry.onRefresh (e : FireEntry) (l : Ltr) : EntryStep :=
  let lc := leadFor l.V e.tau l.P
  let rem := e.remaining l
  if rem ≤ lc.1 then .fire (min 65535 (lc.1 - rem)) true lc.1 lc.2
  else .keep { e with lead := lc.1, clamped := lc.2, F := l.firePoint e.Q lc.1, skip := l.skipFor rem lc.1 }

/-- A forward jump of `j` counts, with the tracker as it stood before the jump (R88). -/
def FireEntry.onForwardJump (e : FireEntry) (l : Ltr) (j : Nat) : EntryStep :=
  let d := l.ahead e.F
  if 1 ≤ d ∧ d ≤ j then
    if e.skip = 0 then .fire (min 65535 (j - d)) true e.lead e.clamped else .keep { e with skip := 0 }
  else .keep e

/-- A backward jump of `d` counts, with the tracker as it stood before it: F among H down to H − d + 1 (R89). -/
def FireEntry.onBackwardJump (e : FireEntry) (l : Ltr) (d : Nat) : EntryStep :=
  if (l.H + l.L - e.F) % l.L < d then .keep { e with skip := satInc 1 e.skip } else .keep e

/-- A correction of `d` counts at the tracker `l`, as it stood before it (R88, R89); d = 0 changes no entry. -/
def FireEntry.onCorrection (e : FireEntry) (l : Ltr) (d : Int) : EntryStep :=
  if d < 0 then e.onForwardJump l d.natAbs else e.onBackwardJump l d.natAbs

/-- The entry that stays after a step, if it stays. -/
def EntryStep.kept : EntryStep → Option FireEntry
  | .keep e => some e
  | .fire _ _ _ _ => none

/-- What FSC hands OBU when an entry fires at T = `t` and H = `h` (R93, R94). -/
def EntryStep.info (x : EntryStep) (e : FireEntry) (t : Time) (h : Nat) : Option FireInfo :=
  match x with
  | .keep _ => none
  | .fire late lf lead cl =>
    some { part := { tf := t, tray := e.tray, position := h, lead := lead, late := late }, leadClamped := cl, lateFire := lf }

end Sys2Proof.Machine
end

