-- ==== Sys2Proof/Machine/Coils.lean ====
section
/-! DEFINITION. One coil channel (chapter 6): its outputs, its phases at a boundary, hand-over, cancel, forced stop, trip and
clear. The report of a coil done and what follows from it stand in Endings.lean. -/

namespace Sys2Proof.Machine

/-- The three states in which a channel is sampled and judged (R106, R114). -/
def ChanState.sampled : ChanState → Bool
  | .pullIn => true
  | .hold => true
  | .ret => true
  | .idle => false
  | .gap1 => false
  | .gap2 => false
  | .recover => false
  | .fault => false

/-- The six phases of a profile. -/
def ChanState.running : ChanState → Bool
  | .idle => false
  | .fault => false
  | .pullIn => true
  | .hold => true
  | .gap1 => true
  | .ret => true
  | .gap2 => true
  | .recover => true

/-- The duty of PULLn, 0 when off; the guard withholds it (R99, R103). -/
def Channel.pullDuty (c : Channel) : Nat :=
  match c.state, c.profile with
  | .pullIn, some p => if c.guard = 0 then p.pullDuty else 0
  | .hold, some p => if c.guard = 0 then p.holdDuty else 0
  | _, _ => 0

/-- The duty of RETn, 0 when off (R99). -/
def Channel.retDuty (c : Channel) : Nat :=
  match c.state, c.profile with
  | .ret, some p => p.returnDuty
  | _, _ => 0

/-- The phases that can follow a phase, in order, each with its length (the table of section 6.2). -/
def Profile.after (p : Profile) : ChanState → List (ChanState × Nat)
  | .pullIn => [(.hold, p.holdPeriods), (.gap1, p.dead)]
  | .hold => [(.gap1, p.dead)]
  | .gap1 => if p.returnPeriods = 0 then [(.recover, p.recover)] else [(.ret, p.returnPeriods)]
  | .ret => [(.gap2, p.dead)]
  | .gap2 => [(.recover, p.recover)]
  | .recover => []
  | .idle => []
  | .fault => []

/-- The next phase whose length is above 0, none when the profile is at its end (R101, R102). -/
def Profile.nextPhase (p : Profile) (st : ChanState) : Option (ChanState × Nat) :=
  (p.after st).find? fun x => decide (0 < x.2)

/-- A profile is handed to a channel (R100). -/
def Channel.handOver (c : Channel) (p : Profile) (o : Owner) : Channel :=
  { c with profile := some p, owner := some o, startPending := true, returnRequested := false }

/-- The channel enters a phase with its length, one period on (R101). -/
def Channel.enter (c : Channel) (st : ChanState) (n : Nat) : Channel :=
  { c with state := st, remaining := n, p := c.p.map (· + 1) }

/-- The channel at a boundary at T = `t`: the guard counts, a pending profile starts, a running one counts its period and
changes phase or ends (R100 to R103). The flag says that the profile ended at this boundary. -/
def Channel.boundary (c : Channel) (t : Time) : Channel × Bool :=
  let c := { c with guard := c.guard - 1 }
  match c.profile with
  | none => (c, false)
  | some pr =>
    if c.startPending then
      ({ c with state := .pullIn, remaining := pr.pullPeriods, p := some 0, tb := some t, startPending := false }, false)
    else if c.state.running then
      if c.returnRequested ∧ (c.state = .pullIn ∨ c.state = .hold) then
        ({ c.enter .gap1 pr.dead with returnRequested := false }, false)
      else if c.remaining ≤ 1 then
        match pr.nextPhase c.state with
        | some ph => (c.enter ph.1 ph.2, false)
        | none => ({ c with state := .idle, remaining := 0 }, true)
      else ({ c with remaining := c.remaining - 1, p := c.p.map (· + 1) }, false)
    else (c, false)

/-- The guard after a halt or a trip: the latched dead periods plus 1 out of RETURN or GAP2, else as it stands (R103). -/
def Channel.stopGuard (c : Channel) : Nat :=
  match c.state, c.profile with
  | .ret, some p => p.dead + 1
  | .gap2, some p => p.dead + 1
  | _, _ => c.guard

/-- A cancel of the trial that owns the channel (R104), less the coil done of a withdrawn start. -/
def Channel.cancel (c : Channel) : Channel :=
  if c.startPending then { c with startPending := false, profile := none }
  else if c.state = .pullIn ∨ c.state = .hold then { c with returnRequested := true }
  else c

/-- A forced stop: IDLE at once with both outputs off; a channel in FAULT stays (R105). That periods remaining becomes 0 is the
model's choice (log entry 35). -/
def Channel.force (c : Channel) : Channel :=
  if c.state = .fault then c
  else { c with state := .idle, guard := c.stopGuard, startPending := false, returnRequested := false, remaining := 0 }

/-- A trip at T = `t` by a sample (R107). That periods remaining becomes 0 is the model's choice (log entry 35). -/
def Channel.trip (c : Channel) (value : Adc) (t : Time) : Channel :=
  { c with state := .fault, guard := c.stopGuard, startPending := false, returnRequested := false, remaining := 0,
           fault := some { phase := c.state, p := c.p.getD 0, value := value, t := t } }

/-- The channel after its coil done has been handed on: no owner, and no profile unless it is in FAULT (R102, R109, R110). -/
def Channel.reported (c : Channel) : Channel :=
  { c with owner := none, profile := if c.state = .fault then c.profile else none, p := none, tb := none }

/-- An accepted ClearChannel (R109). -/
def Channel.clear (c : Channel) : Channel := { c with state := .idle, fault := none, profile := none }

/-- A sample at or above the latched trip level, on a channel in one of the three states (R106). -/
def Channel.trips (c : Channel) (value : Adc) : Bool :=
  c.state.sampled && match c.profile with
    | some p => decide (p.trip ≤ value.toNat)
    | none => false

end Sys2Proof.Machine
end

