-- ==== Sys2Proof/Machine/Traces.lean ====
section
/-! DEFINITION. The trace unit (chapter 7): granting, filling and completing trace buffers, reducing a trace to dip, peak and
hold mean, and the coil outcome. -/

namespace Sys2Proof.Machine

/-- The buffer that is FILLING for a trial; trial numbers of occupied slots differ, so there is at most one (R115, R119). -/
def Tru.fillingFor (u : Tru) (number : Nat) : Option Buf :=
  allBuffers.find? fun b =>
    match u.buffers[b] with
    | some tr => decide (tr.state = .filling) && decide (tr.number = number)
    | none => false

/-- A buffer that is free or READ (R120). -/
def Tru.reusable (u : Tru) (b : Buf) : Bool :=
  match u.buffers[b] with
  | none => true
  | some tr => decide (tr.state = .read)

/-- All four buffers are FILLING (R62). -/
def Tru.allFilling (u : Tru) : Bool :=
  allBuffers.all fun b =>
    match u.buffers[b] with
    | some tr => decide (tr.state = .filling)
    | none => false

/-- The completion age of a COMPLETE_UNREAD buffer, none for any other (R120). -/
def Tru.unreadAge (u : Tru) (b : Buf) : Option Nat :=
  match u.buffers[b] with
  | some tr =>
    match tr.state, tr.completion with
    | .completeUnread, some c => some (u.completionCounter - c.2).toNat
    | _, _ => none
  | none => none

/-- The better of a candidate and the best so far, by greater age; the first of equals stays. -/
def olderOf (best : Option (Buf × Nat)) (b : Buf) (age : Option Nat) : Option (Buf × Nat) :=
  match age, best with
  | none, _ => best
  | some a, none => some (b, a)
  | some a, some (b', a') => if a' < a then some (b, a) else some (b', a')

/-- The COMPLETE_UNREAD buffer whose trace completed earliest (R120). -/
def Tru.oldestUnread (u : Tru) : Option Buf :=
  (allBuffers.foldl (fun best b => olderOf best b (u.unreadAge b)) none).map (·.1)

/-- The buffer TRU grants: the lowest free or READ one, else the earliest completed unread one (R120). -/
def Tru.grantChoice (u : Tru) : Option Buf :=
  match allBuffers.find? u.reusable with
  | some b => some b
  | none => u.oldestUnread

/-- A new trace record (R120). -/
def newTrace (number : Nat) (channel : Chan) (f : TraceFields) (p : Profile) (grant : BitVec 32) : Trace :=
  { number := number, channel := channel, fields := f, pullPeriods := p.pullPeriods, holdPeriods := p.holdPeriods,
    tb := none, samples := [], nPull := 0, nHold := 0, nReturn := 0, state := .filling, completion := none, grant := grant }

/-- A grant of buffer `b` (R120). -/
def Tru.grantTo (u : Tru) (b : Buf) (number : Nat) (channel : Chan) (f : TraceFields) (p : Profile) : Tru :=
  { u with buffers := u.buffers.set b (some (newTrace number channel f p u.grantCounter)),
           grantCounter := u.grantCounter + 1 }

/-- The period index of the i-th sample within PULL_IN and HOLD (R119). -/
def Trace.index (tr : Trace) (i : Nat) : Nat := i * tr.fields.m

/-- The search for the dip: `i` is the index of the next sample, `peak` the running peak M (R125). Answers the dip's index,
if it is found, and the peak. -/
def dipSearch (theta cMin : Nat) : Nat → Nat → List Nat → Option Nat × Nat
  | _, peak, [] => (none, peak)
  | i, peak, c :: rest =>
    if cMin ≤ peak ∧ c + theta ≤ peak then (some i, peak) else dipSearch theta cMin (i + 1) (max peak c) rest

/-- The dip index and the peak among the PULL_IN samples; sample 0 starts the peak and cannot be a dip (R125). -/
def findDip (theta cMin : Nat) : List Nat → Option Nat × Nat
  | [] => (none, 0)
  | c :: rest => dipSearch theta cMin 1 c rest

/-- The dip time of a dip index (R125). -/
def dipTime (m i : Nat) : Nat := i * m * 50 + 25

/-- The HOLD samples of the last quarter of the hold phase: those with pull + hold − hold/4 ≤ p < pull + hold (R126). -/
def Trace.holdWindow (tr : Trace) : List Nat :=
  ((List.range tr.nHold).filter fun j =>
      decide (tr.pullPeriods + tr.holdPeriods - tr.holdPeriods / 4 ≤ tr.index (tr.nPull + j))
        && decide (tr.index (tr.nPull + j) < tr.pullPeriods + tr.holdPeriods)).map
    fun j => ((tr.samples.drop (tr.nPull + j)).headD 0).toNat

/-- The mean as an integer quotient, none of no samples (R126). -/
def meanOf : List Nat → Option Nat
  | [] => none
  | xs => some (xs.sum / xs.length)

/-- The reduction of a trace to its coil results (R124 to R126). -/
def Trace.reduce (tr : Trace) : CoilFigures :=
  let pm := findDip tr.fields.theta tr.fields.cMin ((tr.samples.take tr.nPull).map BitVec.toNat)
  { dip := pm.1.map (dipTime tr.fields.m), peak := pm.2, holdMean := meanOf tr.holdWindow }

/-- The trace in buffer `b` completes with a cause: COMPLETE_UNREAD with the next completion order, and reduced to the coil
result record of its channel when its profile has begun (R121, R124). -/
def Tru.completeBuffer (u : Tru) (b : Buf) (cause : TraceCause) : Tru :=
  match u.buffers[b] with
  | none => u
  | some tr =>
    { u with buffers := u.buffers.set b (some { tr with state := .completeUnread, completion := some (cause, u.completionCounter) }),
             completionCounter := u.completionCounter + 1,
             results := if tr.tb.isSome then u.results.set tr.channel (some tr.reduce) else u.results }

/-- The FILLING trace of a trial, if any, completes; a trace already complete is not changed (R121). -/
def Tru.complete (u : Tru) (number : Nat) (cause : TraceCause) : Tru :=
  match u.fillingFor number with
  | some b => u.completeBuffer b cause
  | none => u

/-- A profile starts at the boundary `t`: the owner's FILLING trace takes its t_b (R119, R120). -/
def Tru.startTrace (u : Tru) (number : Nat) (t : Time) : Tru :=
  match u.fillingFor number with
  | none => u
  | some b =>
    match u.buffers[b] with
    | none => u
    | some tr => { u with buffers := u.buffers.set b (some { tr with tb := some t }) }

/-- A sample appended to a trace in the phase in which it was taken (R115, R119). -/
def Trace.append (tr : Trace) (value : Adc) (phase : ChanState) : Trace :=
  { tr with samples := tr.samples ++ [value],
            nPull := if phase = .pullIn then tr.nPull + 1 else tr.nPull,
            nHold := if phase = .hold then tr.nHold + 1 else tr.nHold,
            nReturn := if phase = .ret then tr.nReturn + 1 else tr.nReturn }

/-- The buffer that keeps a sample of channel `c`: its owner has a FILLING trace, the channel is in one of the three states,
and p is a multiple of m (R115). -/
def Tru.keeps (u : Tru) (c : Channel) : Option Buf :=
  match c.owner, c.p with
  | some o, some p =>
    match u.fillingFor o.number with
    | none => none
    | some b =>
      match u.buffers[b] with
      | none => none
      | some tr => if c.state.sampled ∧ p % tr.fields.m = 0 then some b else none
  | _, _ => none

/-- A sample is appended to buffer `b`; the 256th completes the trace with cause FULL (R115, R121). -/
def Tru.appendTo (u : Tru) (b : Buf) (value : Adc) (phase : ChanState) : Tru :=
  match u.buffers[b] with
  | none => u
  | some tr =>
    let tr' := tr.append value phase
    let u' := { u with buffers := u.buffers.set b (some tr') }
    if tr'.samples.length = 256 then u'.completeBuffer b .full else u'

/-- Whether appending to buffer `b` completes its trace (R121). -/
def Tru.fills (u : Tru) (b : Buf) : Bool :=
  match u.buffers[b] with
  | none => false
  | some tr => decide (tr.samples.length + 1 = 256)

/-- The coil outcome, the first row of R127 that applies; `traced` says whether the trial has a trace. -/
def coilOutcome (ending : CoilEnding) (traced : Bool) (f : TraceFields) (x : CoilFigures) : VerdictOutcome :=
  if ending = .fault then .coilFault
  else if !traced then .notTraced
  else match x.dip with
    | none => .coilNoMotion
    | some d =>
      if f.dipMax < d then .coilSlow
      else if d < f.dipMin then .coilFast
      else match x.holdMean with
        | none => .pass
        | some h => if h < f.holdLo then .holdLow else if f.holdHi < h then .holdHigh else .pass

/-- The results an untraced trial reports (R127). -/
def CoilFigures.untraced : CoilFigures := { dip := none, peak := 0, holdMean := none }

/-- The buffer that ReadTrace finds for a trial number: of those that carry it, the one granted latest (R123). -/
def Tru.findTrace (u : Tru) (number : Nat) : Option (Buf × Trace) :=
  allBuffers.foldl (fun best b =>
    match u.buffers[b] with
    | none => best
    | some tr =>
      if tr.number = number then
        match best with
        | none => some (b, tr)
        | some (b', tr') =>
          if (u.grantCounter - tr.grant).toNat < (u.grantCounter - tr'.grant).toNat then some (b, tr) else some (b', tr')
      else best) none

/-- The samples a ReadTrace returns (R123). -/
def Trace.slice (tr : Trace) (offset count : Nat) : List Adc := (tr.samples.drop offset).take count

/-- A ReadTrace marks a COMPLETE_UNREAD trace READ when offset plus samples returned equals its length (R122). That an offset equal to
the length of a trace with samples, which returns none, does so too is the model's choice (log entry 40). -/
def Trace.afterRead (tr : Trace) (offset count : Nat) : Trace :=
  if tr.state = .completeUnread ∧ offset + (tr.slice offset count).length = tr.samples.length then
    { tr with state := .read }
  else tr

/-- The channels of the scan list with the values captured at its beginning (R114). -/
def scanListOf (channels : Vector Channel 16) (sense : Vector Adc 16) : List (Chan × Adc) :=
  (allChannels.filter fun c => (channels[c]).state.sampled).map fun c => (c, sense[c])

end Sys2Proof.Machine
end

