-- ==== Sys2Proof/Machine/Link.lean ====
section
/-! DEFINITION. The drive link's own part of each event (chapter 9): exchanges and the release plan, the handover check, the
measurement, the judging of answers, and the final report. What follows outside the link stands in Endings.lean. -/

namespace Sys2Proof.Machine

/-- The value a command carries (R151). -/
def Dlk.valueOf (d : Dlk) : DriveCmd → Nat
  | .step => d.setpointSent
  | .base => match d.latch with | some x => x.record.base | none => 0
  | .query => 0
  | .stop => 0
  | .release => 0

/-- The select output of the latched drive record (R152). -/
def Dlk.selectOf (d : Dlk) : Fin 8 := match d.latch with | some x => x.record.select | none => 0

/-- An exchange starts at T = `t`: its command leaves the next slot and the release plan (R152, R153). -/
def Dlk.start (d : Dlk) (t : Time) (c : DriveCmd) : Dlk :=
  { d with cur := some { cmd := c, value := d.valueOf c, select := d.selectOf, start := t }, next := none,
           plan := d.plan.erase c, stopStarted := d.stopStarted || decide (c = .stop), clockStop := none }

/-- A command is made ready: it starts at once, or waits in the next slot; a QUERY behind a waiting QUERY is dropped (R153). -/
def Dlk.makeReady (d : Dlk) (t : Time) (c : DriveCmd) : Dlk :=
  match d.cur with
  | none => d.start t c
  | some _ => if c = .query ∧ d.next = some .query then d else { d with next := some c }

/-- The entry into RELEASING with a release plan: a waiting QUERY leaves the slot, and the plan's first command is made ready
(R153, R160). -/
def Dlk.formPlan (d : Dlk) (t : Time) (plan : List DriveCmd) : Dlk :=
  let d' := { d with state := .releasing, next := none, plan := plan }
  match plan with
  | [] => d'
  | c :: _ => d'.makeReady t c

/-- The next exchange after an answer has been judged: the waiting one, else the release plan's next (R153). -/
def Dlk.advance (d : Dlk) (t : Time) : Dlk :=
  match d.cur with
  | some _ => d
  | none =>
    match d.next with
    | some c => d.start t c
    | none =>
      if d.state = .releasing then
        match d.plan with
        | c :: _ => d.start t c
        | [] => d
      else d

/-- A SETPOINT of the base setpoint not yet started is removed from the plan (R159). -/
def Dlk.removeBase (d : Dlk) : Dlk :=
  { d with plan := d.plan.filter fun c => decide (c ≠ .base), next := if d.next = some .base then none else d.next }

/-- DLK is told of a STOP while RELEASING: with RELEASE and any STOP not yet started, a waiting base SETPOINT goes and STOP
is placed before RELEASE, in the slot if the plan had a command waiting there (R153, R164). -/
def Dlk.tellStop (d : Dlk) : Dlk :=
  if d.plan.contains .release ∧ d.stopStarted = false then
    { d with plan := [.stop, .release], next := d.next.map fun _ => .stop }
  else d

/-- The start of a handover check (R154). -/
def Dlk.startCheck (d : Dlk) (o : Owner) (x : DriveLatch) (t : Time) (busy : Bool) : Dlk :=
  { Dlk.reset with state := .checking, owner := some o, latch := some x,
                   deadline := some (t + BitVec.ofNat 32 (1000 * x.record.checkMs)), busySeen := busy,
                   clockStop := d.clockStop }

/-- θ90 (R158). -/
def theta90For (v0 vExp : Nat) : Nat :=
  if v0 ≤ vExp then v0 + (9 * (vExp - v0) + 5) / 10 else v0 - (9 * (v0 - vExp) + 5) / 10

/-- The measurement formed at the entry into OWNED (R155, R158). -/
def newMeasurement (v0 vExp : Nat) : Measurement :=
  { v0 := v0, theta90 := theta90For v0 vExp, up := decide (v0 ≤ vExp), windows := 0, rise := none, peak := none,
    lastOut := none, lastIn := none }

/-- The deadline with busy seen clear: OWNED, with V_0 = `v`, and the step's SETPOINT is sent, clamped to the maximum (R155). -/
def Dlk.own (d : Dlk) (t : Time) (v : Nat) : Dlk :=
  match d.latch with
  | none => d
  | some x =>
    { d with state := .owned, deadline := none, setpointSent := min x.step x.record.maximum,
             setpointClamped := decide (x.record.maximum < x.step),
             measurement := some (newMeasurement v x.vExp) }.makeReady t .step

/-- Whether V lies in the band about V_exp (R158). -/
def inBand (v vExp band : Nat) : Bool := decide (vExp ≤ v + band) && decide (v ≤ vExp + band)

/-- One recorded window (R157, R158). -/
def Measurement.record (m : Measurement) (vExp band v : Nat) : Measurement :=
  let i := m.windows + 1
  let reached := if m.up then decide (m.theta90 ≤ v) else decide (v ≤ m.theta90)
  let b := inBand v vExp band
  { m with windows := i,
           rise := match m.rise with
             | some r => some r
             | none => if reached then some i else none,
           peak := some (match m.peak with
             | none => v
             | some p => if m.up then max p v else min p v),
           lastOut := if b then m.lastOut else some i, lastIn := some b }

/-- A window close while OWNED: the window is recorded, and a QUERY is made ready or the release begins (R157). -/
def Dlk.window (d : Dlk) (t : Time) (v : Nat) : Dlk :=
  match d.state, d.latch, d.measurement with
  | .owned, some x, some m =>
    let m' := m.record x.vExp x.record.band v
    let d' := { d with measurement := some m' }
    if m'.windows < x.duration then d'.makeReady t .query else d'.formPlan t [.base, .release]
  | _, _, _ => d

/-- The overshoot of a measurement, 0 when negative (R158). -/
def Measurement.overshoot (m : Measurement) (vExp : Nat) : Nat :=
  match m.peak with
  | none => 0
  | some p => if m.up then p - vExp else vExp - p

/-- The settle of a measurement, none when unsettled (R158). -/
def Measurement.settle (m : Measurement) : Option Nat :=
  match m.lastIn with
  | some true => some (m.lastOut.getD 0 + 1)
  | _ => none

/-- The drive outcome, the first row of R166 that applies. -/
def Dlk.outcome (d : Dlk) : VerdictOutcome :=
  if d.faultSeen then .driveFault
  else if d.refused then .driveRefused
  else if d.linkError then .driveLinkError
  else match d.latch, d.measurement with
    | some x, some m =>
      match m.rise with
      | none => .driveSlow
      | some r =>
        if x.record.riseLimit < r then .driveSlow
        else if x.record.overshootLimit < m.overshoot x.vExp then .driveOvershoot
        else if m.settle.isNone then .driveUnsettled
        else .pass
    | _, _ => .driveSlow

/-- The drive part, present when the link reached OWNED (R166). -/
def Dlk.part (d : Dlk) : Option DrivePart :=
  match d.latch, d.measurement with
  | some x, some m =>
    some { index := x.index.val, setpoint := d.setpointSent, v0 := m.v0, peak := m.peak.getD m.v0, rise := m.rise.getD 0,
           settle := m.settle, lastStatus := d.lastStatus }
  | _, _ => none

/-- The final report (R166), with the indications, the bad QUERY count and the last drive status as they stand (R162, R165). -/
def Dlk.report (d : Dlk) : DriveReport :=
  { abort := d.abort, outcome := if d.abort = some .conflict then none else some d.outcome,
    setpointClamped := d.setpointClamped, releaseFailed := d.releaseFailed, part := d.part, latch := d.latch,
    faultSeen := d.faultSeen, refused := d.refused, linkError := d.linkError, badQuery := d.badQuery,
    lastStatus := d.lastStatus }

/-- What the link does not keep of the trial that faulted: the latched values, the indications and the last drive status (R165). -/
def Dlk.forget (d : Dlk) : Dlk :=
  { d with latch := none, faultSeen := false, refused := false, linkError := false, setpointClamped := false,
           releaseFailed := false, lastStatus := none }

/-- The link in IDLE or FAULT after its report: no owner (R166), no deadline, nothing to send. The bad QUERY count and the indications
stay as they were (R162), until the next arming clears them (R154); in FAULT what R165 names is not kept. That what no rule clears
stays too is DEDUCED (log entry 39). -/
def Dlk.left (d : Dlk) (final : LinkState) : Dlk :=
  let rest : Dlk := { d with state := final, owner := none, deadline := none, cur := none, next := none, plan := [],
                             stopStarted := false }
  if final = .fault then rest.forget else rest

/-- A take-back abandons the current exchange, which is not judged: the bad QUERY count and the indications stay; DCLK stops at its
present offset (R152, R162). -/
def Dlk.takeBack (d : Dlk) (t : Time) : Dlk :=
  { d with abort := some .takenBack, cur := none, next := none, plan := [],
           clockStop := match d.cur with
             | some x => some (t - x.start)
             | none => d.clockStop }

/-- What the judging of an answer leads to: the link goes on, or leaves for IDLE or FAULT. -/
inductive LinkStep where
  | stay (d : Dlk)
  | leave (d : Dlk) (final : LinkState)
  deriving DecidableEq, Repr

/-- A link error (R161). -/
def Dlk.fail (d : Dlk) : LinkStep := .leave { d with linkError := true, next := none, plan := [] } .fault

/-- A DRIVE_FAULT indication in a good answer, fault seen already set (R159). -/
def Dlk.onDriveFault (d : Dlk) (t : Time) : Dlk :=
  if d.state = .owned then d.formPlan t [.release] else d.removeBase.advance t

/-- The answer to the step's SETPOINT (R156). -/
def Dlk.answerStep (d : Dlk) (t : Time) (good ack driveFault : Bool) : LinkStep :=
  if !good then d.fail
  else
    let d' := if ack then d else { d with refused := true }
    if driveFault then .stay (d'.onDriveFault t)
    else if !ack ∧ d.state = .owned then .stay (d'.formPlan t [.release])
    else .stay (d'.advance t)

/-- The answer to a QUERY (R159, R161). -/
def Dlk.answerQuery (d : Dlk) (t : Time) (good driveFault : Bool) : LinkStep :=
  if good then
    if driveFault then .stay ({ d with badQuery := 0 }.onDriveFault t) else .stay ({ d with badQuery := 0 }.advance t)
  else if d.badQuery = 1 then d.fail
  else .stay ({ d with badQuery := 1 }.advance t)

/-- The answer to the base SETPOINT or to a STOP (R159 to R161). -/
def Dlk.answerPlan (d : Dlk) (t : Time) (good driveFault : Bool) : LinkStep :=
  if !good then d.fail
  else if driveFault then .stay (d.onDriveFault t)
  else .stay (d.advance t)

/-- The answer to RELEASE (R160). -/
def Dlk.answerRelease (d : Dlk) (good : Bool) : LinkStep :=
  if good then .leave d .idle else .leave { d with releaseFailed := true } .fault

/-- The end of the current exchange with its answer (R151, R152, R156 to R161). -/
def Dlk.exchangeEnd (d : Dlk) (t : Time) (status hi lo check : Byte) : LinkStep :=
  match d.cur with
  | none => .stay d
  | some x =>
    let good := decide (check = driveCheck status hi lo)
    let ack := status.getLsbD 0
    let df := good && status.getLsbD 1
    let d' := { d with cur := none, faultSeen := d.faultSeen || df,
                       lastStatus := if good then some (status, beValue [hi, lo]) else d.lastStatus }
    match x.cmd with
    | .step => d'.answerStep t good ack df
    | .query => d'.answerQuery t good df
    | .base => d'.answerPlan t good df
    | .stop => d'.answerPlan t good df
    | .release => d'.answerRelease good

/-- The request frame of an exchange (R151). -/
def Exchange.requestFrame (x : Exchange) : List Byte :=
  match beBytes 2 x.value with
  | [hi, lo] => [x.cmd.code, hi, lo, driveCheck x.cmd.code hi lo]
  | _ => []

end Sys2Proof.Machine
end

