-- ==== Sys2Proof/Machine/Observe.lean ====
section
/-! DEFINITION. The observation unit's own records (chapter 8): the chute watch, judged by time, and the eye observation,
judged by position. -/

namespace Sys2Proof.Machine

/-- The watch opened at a fire (R130). `active` is the line's active indication as it stands. -/
def openWatch (info : FireInfo) (r : ChuteRecord) (active : Bool) : Watch :=
  { fire := info, line := r.eyeLine, wOpen := r.wOpen, wClose := r.wClose, wLate := r.wLate,
    expiry := info.part.tf + BitVec.ofNat 32 (r.wClose + r.wLate),
    state := match r.eyeLine with
      | none => .ended
      | some _ => if active then .blocked else .opened,
    arrival := none, arrivalRaw := none, dwell := none, extra := 0, stillBlocked := false,
    item := match r.eyeLine with
      | none => some .unobserved
      | some _ => if active then some .blocked else none }

/-- The expiry of a watch (R133): OPEN becomes MISSING, ARRIVED sets STILL_BLOCKED. -/
def Watch.expire (w : Watch) : Watch :=
  match w.state with
  | .opened => { w with state := .ended, item := some .missing }
  | .arrived => { w with state := .ended, stillBlocked := true, dwell := none }
  | .dwellTaken => { w with state := .ended }
  | .blocked => { w with state := .ended }
  | .ended => w

/-- A watch stopped by a cancel or a halt (R134): as at expiry, but an OPEN watch takes no item outcome. -/
def Watch.stop (w : Watch) : Watch :=
  match w.state with
  | .opened => { w with state := .ended }
  | .arrived => { w with state := .ended, stillBlocked := true, dwell := none }
  | .dwellTaken => { w with state := .ended }
  | .blocked => { w with state := .ended }
  | .ended => w

/-- The item outcome of an arrival (R131). -/
def Watch.judgeArrival (w : Watch) (a : Nat) : VerdictOutcome :=
  if a < w.wOpen then .early else if a ≤ w.wClose then .pass else .late

/-- An edge of the watched line (R131, R132). -/
def Watch.edge (w : Watch) (goingActive : Bool) (raw : Time) : Watch :=
  match w.state with
  | .opened =>
    let a := (raw - w.fire.part.tf).toNat
    if goingActive ∧ a < 2 ^ 31 then
      { w with state := .arrived, arrival := some a, arrivalRaw := some raw, item := some (w.judgeArrival a) }
    else w
  | .arrived =>
    if goingActive then w
    else { w with state := .dwellTaken, dwell := some ((raw - w.arrivalRaw.getD 0).toNat) }
  | .dwellTaken => if goingActive then { w with extra := satInc 15 w.extra } else w
  | .blocked => w
  | .ended => w

/-- The progress at which pass j is expected (R136). -/
def EyeObservation.passAt (e : EyeObservation) (pitch j : Nat) : Int := e.uE0 + ((j * pitch : Nat) : Int)

/-- The observation started when an EYE trial arms (R136). -/
def startObservation (r : EyeRecord) (l : Ltr) : EyeObservation :=
  let kq := l.nextPass r.X (l.P / 2)
  let d := l.ahead kq.2
  { line := r.line, X := r.X, tol := r.tol, expected := r.expected, lenTol := r.lenTol, passes := r.passes,
    tray := kq.1, passPoint := kq.2, u := 0, uE0 := (d : Int),
    uEnd := (((d + (r.passes - 1) * l.P + l.P / 2) : Nat) : Int),
    hitPasses := [], closed := 0, lastLead := none, hits := 0, misses := 0, extras := 0, strays := 0,
    dMin := none, dMax := none, dSum := 0, lenMin := none, lenMax := none, lenFailures := 0 }

/-- How many passes u has closed: those j below n with u at or beyond half a pitch after pass j (R137). -/
def EyeObservation.closedBy (e : EyeObservation) (pitch : Nat) (u : Int) : Nat :=
  ((List.range e.passes).filter fun j => decide (e.passAt pitch j + ((pitch / 2 : Nat) : Int) ≤ u)).length

/-- The progress moves by `delta`; a pass once closed stays closed (R137). -/
def EyeObservation.advance (e : EyeObservation) (pitch : Nat) (delta : Int) : EyeObservation :=
  { e with u := e.u + delta, closed := max e.closed (e.closedBy pitch (e.u + delta)) }

/-- The progress has reached u_end (R137). -/
def EyeObservation.done (e : EyeObservation) : Bool := decide (e.uEnd ≤ e.u)

/-- The filter compensation (R138). -/
def compensation (v g : Nat) : Nat := (v * (g + 2) + 2048) / 4096

/-- The pass ordinal of an edge, with floor for negative values (R138). -/
def EyeObservation.ordinal (e : EyeObservation) (pitch : Nat) (ue : Int) : Int :=
  (ue - e.uE0 + ((pitch / 2 : Nat) : Int)) / (pitch : Int)

/-- The deviation of an edge from the pass of its ordinal (R138). -/
def EyeObservation.deviation (e : EyeObservation) (pitch : Nat) (ue : Int) : Int :=
  ue - e.uE0 - e.ordinal pitch ue * (pitch : Int)

/-- The judgement of a leading edge (R138). -/
def EyeObservation.judge (e : EyeObservation) (pitch : Nat) (ue : Int) : EdgeJudgement :=
  let j := e.ordinal pitch ue
  if 0 ≤ j ∧ j < (e.passes : Int) ∧ (e.deviation pitch ue).natAbs ≤ e.tol then
    if j.toNat ∈ e.hitPasses then .extra else .hit
  else .stray

/-- A leading edge at speed `v` with filter length `g` (R138). -/
def EyeObservation.leading (e : EyeObservation) (pitch v g : Nat) : EyeObservation :=
  let ue := e.u - (compensation v g : Int)
  match e.judge pitch ue with
  | .hit =>
    let d := e.deviation pitch ue
    { e with hits := satInc 255 e.hits, hitPasses := (e.ordinal pitch ue).toNat :: e.hitPasses,
             dMin := optMin e.dMin d, dMax := optMax e.dMax d, dSum := e.dSum + d, lastLead := some (.hit, ue) }
  | .extra => { e with extras := satInc 255 e.extras, lastLead := some (.extra, ue) }
  | .stray => { e with strays := satInc 255 e.strays, lastLead := some (.stray, ue) }

/-- Whether a measured length is a failure (R139). -/
def EyeObservation.lengthFails (e : EyeObservation) (len : Int) : Bool :=
  match e.expected with
  | none => false
  | some x => decide (e.lenTol < (len - (x : Int)).natAbs)

/-- A going-inactive edge (R139): it measures the length of a hit and is otherwise discarded. -/
def EyeObservation.trailing (e : EyeObservation) (v g : Nat) : EyeObservation :=
  match e.lastLead with
  | some (.hit, ue) =>
    let len := e.u - (compensation v g : Int) - ue
    { e with lenMin := optMin e.lenMin len, lenMax := optMax e.lenMax len,
             lenFailures := if e.lengthFails len then satInc 255 e.lenFailures else e.lenFailures, lastLead := none }
  | _ => { e with lastLead := none }

/-- An edge of the observed line (R138, R139). -/
def EyeObservation.edge (e : EyeObservation) (pitch v g : Nat) (goingActive : Bool) : EyeObservation :=
  if goingActive then e.leading pitch v g else e.trailing v g

/-- The passes closed without a hit (R140, R141). -/
def EyeObservation.missesNow (e : EyeObservation) : Nat :=
  ((List.range e.closed).filter fun j => decide (j ∉ e.hitPasses)).length

/-- The sensor outcome of a trial at u_end (R140). -/
def EyeObservation.sensorOutcome (e : EyeObservation) : VerdictOutcome :=
  if 0 < e.misses then .sensorMiss
  else if 0 < e.strays then .sensorStray
  else if 0 < e.extras then .sensorDouble
  else if 0 < e.lenFailures then .sensorLength
  else .pass

/-- The observation at its end: the misses are counted (R140, R141). -/
def EyeObservation.finish (e : EyeObservation) : EyeObservation := { e with misses := e.missesNow }

/-- The sensor part of a verdict (R147). -/
def EyeObservation.part (e : EyeObservation) : SensorPart :=
  { hits := e.hits, misses := e.misses, extras := e.extras, strays := e.strays, dMin := e.dMin, dMax := e.dMax,
    dSum := e.dSum, lenMin := e.lenMin, lenMax := e.lenMax, lenFailures := e.lenFailures }

/-- The sensor part of a trial without an observation: every count 0. -/
def SensorPart.empty : SensorPart :=
  { hits := 0, misses := 0, extras := 0, strays := 0, dMin := none, dMax := none, dSum := 0, lenMin := none, lenMax := none,
    lenFailures := 0 }

end Sys2Proof.Machine
end

