-- ==== Sys2Proof/Machine/Verdicts.lean ====
section
/-! DEFINITION. Composing a verdict (R144 to R147) and writing it (R65, R148, R170). -/

namespace Sys2Proof.Machine

/-- The reason of a trial aborted by an entry into HALTED (R145). -/
def HaltCause.reason : HaltCause → Reason
  | .stop => .stop
  | .halt => .halt

/-- The outcome by the trial's own work, with the reason of a DRIVE report's abort (R145, the rows after the ends). A record
that a begun trial always has and is missing here is answered by the outcome of work not done; no run reaches that. -/
def State.workOutcome (s : State) (k : Slot) (t : Trial) : VerdictOutcome × Option Reason :=
  match t.target.kind with
  | .drive =>
    match s.obu.drives[k] with
    | none => (.driveLinkError, none)
    | some r =>
      match r.abort with
      | some x => (.aborted, some x)
      | none => (r.outcome.getD .driveLinkError, none)
  | .chute =>
    match s.obu.coils[k], s.obu.watches[k] with
    | some c, some w => if c.ending = .fault then (.coilFault, none) else (w.item.getD .missing, none)
    | some c, none => (if c.ending = .fault then .coilFault else .missing, none)
    | none, some w => (w.item.getD .missing, none)
    | none, none => (.missing, none)
  | .coil =>
    match s.obu.coils[k] with
    | some c => (c.outcome, none)
    | none => (.notTraced, none)
  | .eye =>
    match s.obu.eyes[k] with
    | some e => (e.finish.sensorOutcome, none)
    | none => (.sensorMiss, none)

/-- The outcome and the reason of a verdict, by the first row of R145 that applies; `loss` is the reason of a loss or a
reverse window that ends the trial. -/
def State.verdictOutcome (s : State) (k : Slot) (t : Trial) (loss : Option Reason) : VerdictOutcome × Option Reason :=
  match t.ending with
  | .cancelled => (.cancelled, none)
  | .aborted c => (.aborted, some c.reason)
  | .open_ =>
    match loss with
    | some r => (.aborted, some r)
    | none => s.workOutcome k t

/-- The flags of a verdict (R146). -/
def State.verdictFlags (s : State) (k : Slot) : VerdictFlags :=
  let w := s.obu.watches[k]
  let d := s.obu.drives[k]
  { leadClamped := (w.map fun x => x.fire.leadClamped).getD false,
    lateFire := (w.map fun x => x.fire.lateFire).getD false,
    stillBlocked := (w.map fun x => x.stillBlocked).getD false,
    setpointClamped := (d.map fun x => x.setpointClamped).getD false,
    releaseFailed := (d.map fun x => x.releaseFailed).getD false }

/-- The COIL part of a coil report: none for a WITHDRAWN ending (R110, R147). -/
def CoilReport.part (c : CoilReport) : Option CoilPart :=
  if c.ending = .withdrawn then none
  else some { outcome := c.outcome, buffer := c.buffer, dip := c.figures.dip, peak := c.figures.peak,
              holdMean := c.figures.holdMean }

/-- The verdict record of a trial as OBU composes it; the serial is the log's (R144 to R148). -/
def State.compose (s : State) (k : Slot) (t : Trial) (loss : Option Reason) : Verdict :=
  let o := s.verdictOutcome k t loss
  let w := s.obu.watches[k]
  { serial := 0, number := t.number, kind := t.target.kind, outcome := o.1, reason := o.2, flags := s.verdictFlags k,
    target := t.target.index, tArm := t.tArm.getD 0,
    fire := w.map fun x => x.fire.part,
    item := w.map fun x => { arrival := x.arrival, dwell := x.dwell, extra := x.extra },
    coil := (s.obu.coils[k]).bind CoilReport.part,
    sensor := if t.target.kind = .eye then
        some (match s.obu.eyes[k] with | some e => e.finish.part | none => .empty)
      else none,
    drive := (s.obu.drives[k]).bind fun r => r.part }

/-- OBU discards what it held for the trial of a slot (R148). -/
def Obu.discard (o : Obu) (k : Slot) : Obu :=
  { o with watches := o.watches.set k none, eyes := o.eyes.set k none, coils := o.coils.set k none,
           drives := o.drives.set k none }

/-- A holder set to none where a resource was held (R65). -/
def freeHolder {n : Nat} (v : Vector (Option Slot) n) : Option (Fin n) → Vector (Option Slot) n
  | some i => v.set i none
  | none => v

/-- The slot is emptied and its trial's resources are released (R65). -/
def Ttb.empty (b : Ttb) (k : Slot) (h : Held) : Ttb :=
  { b with slots := b.slots.set k none, channelHolder := freeHolder b.channelHolder h.channel,
           lineHolder := freeHolder b.lineHolder h.line, linkHolder := if h.link then none else b.linkHolder }

/-- The verdict of the trial in a slot is written: composed, logged with the LOG flag, its observation discarded and its slot
emptied, as one event (R65, R148, R170). Only a trial beyond LOADED has a verdict. The scan that follows is the caller's. -/
def State.writeVerdict (s : State) (k : Slot) (loss : Option Reason) : State :=
  match s.trial k with
  | none => s
  | some t =>
    if t.begun then
      let s1 := (s.setVlg (s.vlg.write (s.compose k t loss))).raise .log
      let s2 := s1.setObu (s1.obu.discard k)
      s2.setTtb (s2.ttb.empty k t.held)
    else s

end Sys2Proof.Machine
end

