-- ==== Sys2Proof/Machine/Table.lean ====
section
/-! DEFINITION. The arming arbiter (section 4.5): what a LOADED trial needs, its hold reason, arming with what it starts in
every block, and the scan. -/

namespace Sys2Proof.Machine

/-- The resources a trial needs by its kind and its record as it stands (R59). -/
structure Needs where
  channel : Option Chan
  line : Option LineNo
  link : Bool
  trace : Bool
  deriving DecidableEq, Repr

/-- What a trial needs; none when the record it names is not defined. -/
def State.needs (s : State) (t : Trial) : Option Needs :=
  match t.target with
  | .chute c _ =>
    match s.zmr.chuteRecord c with
    | some x => some { channel := some x.1, line := x.2.eyeLine, link := false, trace := x.2.traceOn }
    | none => none
  | .coil c =>
    match s.zmr.chuteRecord c with
    | some x => some { channel := some x.1, line := none, link := false, trace := true }
    | none => none
  | .eye r =>
    match s.zmr.eyes[r] with
    | some x => some { channel := none, line := some x.line, link := false, trace := false }
    | none => none
  | .drive r _ _ _ =>
    match s.zmr.drives[r] with
    | some _ => some { channel := none, line := none, link := true, trace := false }
    | none => none

/-- Two trials need the same coil channel, the same eye line, or both the drive link (R61). -/
def Needs.clash (a b : Needs) : Bool :=
  (a.channel.isSome && decide (a.channel = b.channel)) || (a.line.isSome && decide (a.line = b.line)) || (a.link && b.link)

/-- Whether a line holds EYE. -/
def State.holdsEye (s : State) (l : LineNo) : Bool := decide ((s.line l).cfg.fn = .eye)

/-- Load check 7: the eye line the trial's record names holds EYE (R56). -/
def State.eyeReady (s : State) (t : Target) : Bool :=
  match t with
  | .chute c _ =>
    match s.zmr.chuteRecord c with
    | some x => match x.2.eyeLine with | some l => s.holdsEye l | none => true
    | none => true
  | .eye r => match s.zmr.eyes[r] with | some x => s.holdsEye x.line | none => true
  | .coil _ => true
  | .drive _ _ _ _ => true

/-- Load check 8: a COIL trial's chute record has trace enable on (R56). -/
def State.traceReady (s : State) (t : Target) : Bool :=
  match t with
  | .coil c => match s.zmr.chuteRecord c with | some x => x.2.traceOn | none => true
  | .chute _ _ => true
  | .eye _ => true
  | .drive _ _ _ _ => true

/-- Load check 9: both handover functions have a holder, for a DRIVE trial (R56). -/
def State.linesReady (s : State) (t : Target) : Bool :=
  match t with
  | .drive _ _ _ _ => s.lmx.requestHolder.isSome && s.lmx.busyHolder.isSome
  | .chute _ _ => true
  | .coil _ => true
  | .eye _ => true

/-- The record of a CHUTE or EYE trial fits the loop (R52). -/
def State.fitsLoop (s : State) (t : Target) : Bool :=
  match t with
  | .chute c _ => match s.zmr.chuteRecord c with | some x => x.2.fits s.ltr | none => true
  | .eye r => match s.zmr.eyes[r] with | some x => x.fits s.ltr | none => true
  | .coil _ => true
  | .drive _ _ _ _ => true

/-- The tray a CHUTE trial names is below N (R56, R61). -/
def Target.trayOk (t : Target) (n : Nat) : Bool :=
  match t with
  | .chute _ (some k) => decide (k < n)
  | .chute _ none => true
  | .coil _ => true
  | .eye _ => true
  | .drive _ _ _ _ => true

/-- A trial needs a synchronised tracker (R59). -/
def Target.needsSync : Target → Bool
  | .chute _ _ => true
  | .coil _ => false
  | .eye _ => true
  | .drive _ _ _ _ => false

/-- NO_POSITION (R61). -/
def State.noPosition (s : State) (t : Target) : Bool :=
  t.needsSync && (decide (s.ltr.trust ≠ .synced) || !s.fitsLoop t || !t.trayOk s.ltr.N)

/-- CHANNEL_FAULT (R61). -/
def State.channelFaulty (s : State) (n : Needs) : Bool :=
  match n.channel with
  | some c => decide ((s.channel c).state = .fault)
  | none => false

/-- RESOURCE (R61). -/
def State.resourceHeld (s : State) (n : Needs) : Bool :=
  (match n.channel with | some c => (s.ttb.channelHolder[c]).isSome | none => false)
    || (match n.line with | some l => (s.ttb.lineHolder[l]).isSome | none => false)
    || (n.link && decide (s.dlk.state ≠ .idle))

/-- The first condition of R61 that holds, none when the trial arms. `ahead` is what the earlier-loaded trials that are still
LOADED at this point of the scan need. A grant only ever takes log places and buffers, so once one trial of a scan fails for
LOG_FULL or TRACE_BUSY the counts make every later one that gets there fail too, as R62 asks. -/
def State.holdReason (s : State) (ahead : List Needs) (t : Trial) : Option HoldReason :=
  if s.ttb.run.isHalted then some .halted
  else match s.needs t with
    | none => some .setup
    | some n =>
      if !s.eyeReady t.target || !s.traceReady t.target || !s.linesReady t.target then some .setup
      else if s.channelFaulty n then some .channelFault
      else if n.link && decide (s.dlk.state = .fault) then some .linkFault
      else if s.noPosition t.target then some .noPosition
      else if s.resourceHeld n then some .resource
      else if ahead.any n.clash then some .order
      else if !s.vlg.placeFree then some .logFull
      else if n.trace && s.tru.allFilling then some .traceBusy
      else none

/-- A profile is handed to a channel for a trial (R100). -/
def State.handOver (s : State) (c : Chan) (p : Profile) (o : Owner) : State :=
  s.setChannel c ((s.channel c).handOver p o)

/-- A holder recorded for a resource (R64). -/
def takeHolder {n : Nat} (v : Vector (Option Slot) n) (k : Slot) : Option (Fin n) → Vector (Option Slot) n
  | some i => v.set i (some k)
  | none => v

/-- The state a trial arms into (R64). -/
def Target.armedState : Target → TrialState
  | .chute _ _ => .armed
  | .coil _ => .active
  | .eye _ => .active
  | .drive _ _ _ _ => .active

/-- The trial record once armed (R64). -/
def Trial.armed (t : Trial) (now : Time) (n : Needs) (buf : Option Buf) : Trial :=
  { t with state := t.target.armedState, hold := none, tArm := some now,
           held := { channel := n.channel, line := n.line, link := n.link, buffer := buf, reservation := true } }

/-- TRU grants the buffer it chooses to a trial that needs one (R64, R120). -/
def State.grantTrace (s : State) (t : Trial) (buf : Option Buf) : State :=
  match buf, t.target.kind with
  | some b, .chute | some b, .coil =>
    match s.zmr.chuteRecord t.target.index with
    | some x => s.setTru (s.tru.grantTo b t.number x.1 x.2.trace x.2.profile)
    | none => s
  | _, _ => s

/-- The trial takes its resources: holders, reservation and buffer (R59, R64). -/
def State.takeResources (s : State) (k : Slot) (t : Trial) (n : Needs) : State :=
  let buf := if n.trace then s.tru.grantChoice else none
  let b := s.ttb
  let s1 := s.setTtb { b with slots := b.slots.set k (some (t.armed s.T n buf)),
                              channelHolder := takeHolder b.channelHolder k n.channel,
                              lineHolder := takeHolder b.lineHolder k n.line,
                              linkHolder := if n.link then some k else b.linkHolder }
  (s1.setVlg s1.vlg.reserve).grantTrace t buf

/-- The fire scheduler adds an entry for an armed CHUTE trial (R64, R81). -/
def State.startChute (s : State) (k : Slot) (number chute : Nat) (tray : Option Nat) : State :=
  match s.zmr.chuteRecord chute with
  | some x => s.setFsc (s.fsc ++ [s.ltr.newEntry k number x.1 x.2.S x.2.tau tray])
  | none => s

/-- The coil driver takes a COIL trial's profile (R64, R100). -/
def State.startCoil (s : State) (k : Slot) (number chute : Nat) : State :=
  match s.zmr.chuteRecord chute with
  | some x => s.handOver x.1 x.2.profile { slot := k, number := number }
  | none => s

/-- The observation unit starts an EYE trial's observation and observes its line (R64, R136). -/
def State.startEye (s : State) (k : Slot) (number : Nat) (r : Fin 16) : State :=
  match s.zmr.eyes[r] with
  | some x =>
    s.setObu { s.obu with eyes := s.obu.eyes.set k (some (startObservation x s.ltr)),
                          observers := s.obu.observers.set x.line (some { slot := k, number := number }) }
  | none => s

/-- The drive link leaves IDLE for its handover check and asserts LINK_REQUEST (R64, R154). -/
def State.startDrive (s : State) (k : Slot) (number : Nat) (r : Fin 8) (step vExp duration : Nat) : State :=
  match s.zmr.drives[r] with
  | some x =>
    (s.setDlk (s.dlk.startCheck { slot := k, number := number }
        { index := r, record := x, step := step, vExp := vExp, duration := duration } s.T s.lmx.busyActive)).assertRequest true
  | none => s

/-- What arming starts, by kind (R64). -/
def State.startWork (s : State) (k : Slot) (t : Trial) : State :=
  match t.target with
  | .chute c tray => s.startChute k t.number c tray
  | .coil c => s.startCoil k t.number c
  | .eye r => s.startEye k t.number r
  | .drive r st v d => s.startDrive k t.number r st v d

/-- Arming a trial at its turn (R64). -/
def State.arm (s : State) (k : Slot) (t : Trial) (n : Needs) : State := (s.takeResources k t n).startWork k t

/-- One turn of a scan: the LOADED trial of a slot arms, or takes its hold reason and stands ahead of the later ones (R60). -/
def scanTurn (acc : State × List Needs) (k : Slot) : State × List Needs :=
  match acc.1.trial k with
  | none => acc
  | some t =>
    if t.begun then acc
    else
      match acc.1.holdReason acc.2 t, acc.1.needs t with
      | none, some n => (acc.1.arm k t n, acc.2)
      | none, none => acc
      | some r, some n => (acc.1.setTrial k (some { t with hold := some r }), acc.2 ++ [n])
      | some r, none => (acc.1.setTrial k (some { t with hold := some r }), acc.2)

/-- An arbiter scan: every LOADED trial once, oldest first (R60). -/
def State.scan (s : State) : State := (s.ttb.oldestFirst.foldl scanTurn (s, [])).1

/-- Whether some trial is LOADED; a scan with none does nothing (R60). -/
def State.anyLoaded (s : State) : Bool :=
  allSlots.any fun k =>
    match s.trial k with
    | some t => decide (t.state = .loaded)
    | none => false

/-- A scan that `live` asks for; CancelAll runs none between its trials (R69). -/
def State.scanIf (s : State) (live : Bool) : State := if live then s.scan else s

end Sys2Proof.Machine
end

