-- ==== Sys2Proof/Machine/Endings.lean ====
section
/-! DEFINITION. What the events of one block do in the others: fires and watches, coil done, EYE endings, the drive link's
leaving, loss and reverse windows, cancels, and the entry into HALTED. -/

namespace Sys2Proof.Machine

/-! ## Scans that a trace completion causes -/

/-- A trace completion causes a scan (R121). Where the same event goes on with `k`, which may write a verdict, R60 allows the
scan before or after it: a free choice, taken only when some trial is LOADED, since a scan does nothing otherwise. -/
def State.completionScan (s : State) (completed live : Bool) (k : State → State) : State :=
  if completed && live && s.anyLoaded then
    if Config.scanFirst s.choices then k s.choose.scan else (k s.choose).scan
  else k s

/-! ## Observers and watches -/

/-- A line loses its observer (R129). -/
def Obu.unobserve (o : Obu) : Option LineNo → Obu
  | some l => { o with observers := o.observers.set l none }
  | none => o

/-- The watch of a slot ends by `f`, and its line loses the observer (R133, R134). -/
def State.endWatch (s : State) (k : Slot) (f : Watch → Watch) : State :=
  match s.obu.watches[k] with
  | none => s
  | some w =>
    if w.state = .ended then s
    else s.setObu ({ s.obu with watches := s.obu.watches.set k (some (f w)) }.unobserve w.line)

/-- A CHUTE trial's verdict is complete: its watch is ENDED and its coil done is in; a COIL trial's: its coil done is in
(R135, R142). -/
def State.complete (s : State) (k : Slot) : Bool :=
  match s.trial k with
  | none => false
  | some t =>
    match t.target.kind with
    | .chute =>
      (s.obu.coils[k]).isSome && match s.obu.watches[k] with
        | some w => decide (w.state = .ended)
        | none => false
    | .coil => (s.obu.coils[k]).isSome
    | .eye => false
    | .drive => false

/-- A complete verdict is written, with the scan that follows (R65, R135, R142). -/
def State.finishIfComplete (s : State) (k : Slot) (live : Bool) : State :=
  if s.complete k then (s.writeVerdict k none).scanIf live else s

/-- T reaches the expiry of a watch (R133). -/
def State.expireWatch (s : State) (k : Slot) : State := (s.endWatch k Watch.expire).finishIfComplete k true

/-- The watch opened within a fire's event; one whose expiry equals t_f expires at once (R130, R133). -/
def State.openWatchFor (s : State) (k : Slot) (number : Nat) (info : FireInfo) (r : ChuteRecord) : State :=
  let act := match r.eyeLine with | some l => (s.line l).active | none => false
  let w := openWatch info r act
  let w' := if r.wClose + r.wLate = 0 then w.expire else w
  let o := { s.obu with watches := s.obu.watches.set k (some w') }
  match r.eyeLine with
  | some l => s.setObu (if w'.state = .ended then o else { o with observers := o.observers.set l (some { slot := k, number := number }) })
  | none => s.setObu o

/-! ## Fires -/

/-- A fire list entry fires: its trial becomes ACTIVE, the profile is handed over and the watch opened, as one event; the entry
has left the list (R93). -/
def State.fire (s : State) (e : FireEntry) (info : FireInfo) : State :=
  match s.trial e.slot with
  | none => s
  | some t =>
    if t.state = .armed then
      let s1 := s.setTrial e.slot (some { t with state := .active })
      match s1.zmr.chuteRecord t.target.index with
      | some x =>
        (s1.handOver e.channel x.2.profile { slot := e.slot, number := e.number }).openWatchFor e.slot e.number info x.2
      | none => s1
    else s

/-- An event acts on every entry of the fire list: each stays as `step` leaves it, or leaves the list and fires (R84 to R89). -/
def State.runEntries (s : State) (step : FireEntry → EntryStep) : State :=
  let fired := s.fsc.filterMap fun e => ((step e).info e s.T s.ltr.H).map fun i => (e, i)
  fired.foldl (fun s x => s.fire x.1 x.2) (s.setFsc (s.fsc.filterMap fun e => (step e).kept))

/-! ## EYE trials -/

/-- An EYE trial ends: its line loses the observer and its verdict is written (R140, R141). -/
def State.closeEye (s : State) (k : Slot) (loss : Option Reason) (live : Bool) : State :=
  match s.obu.eyes[k] with
  | none => s
  | some e => ((s.setObu (s.obu.unobserve (some e.line))).writeVerdict k loss).scanIf live

/-- The slots with an eye observation, oldest trial first. -/
def State.eyeSlots (s : State) : List Slot := s.ttb.oldestFirst.filter fun k => (s.obu.eyes[k]).isSome

/-- Every observation's progress moves, and those that reach u_end by a forward movement end, in load order (R137, R140). -/
def State.moveEyes (s : State) (delta : Int) : State :=
  let s1 := s.setObu { s.obu with eyes := s.obu.eyes.map (Option.map fun e => e.advance s.ltr.P delta) }
  if 0 < delta then
    (s.eyeSlots.filter fun k => match s1.obu.eyes[k] with | some e => e.done | none => false).foldl
      (fun s k => s.closeEye k none true) s1
  else s1

/-! ## Coil done -/

/-- The coil done of a channel for its owner's trial, with the trace unit's coil results (R110, R124, R127). -/
def State.coilReport (s : State) (c : Chan) (ending : CoilEnding) (phase : Option ChanState) (t : Trial) : CoilReport :=
  let ch := s.channel c
  let traced := t.held.buffer.isSome
  let figures := if traced then (s.tru.results[c]).getD .untraced else .untraced
  let outcome := match s.zmr.chuteRecord t.target.index with
    | some x => coilOutcome ending traced x.2.trace figures
    | none => if ending = .fault then .coilFault else .notTraced
  { channel := c, ending := ending, tb := if ending = .withdrawn then none else ch.tb,
    periodsRun := if ending = .withdrawn then none else ch.p.map (· + 1), phase := phase, outcome := outcome,
    buffer := t.held.buffer, figures := figures }

/-- Coil done (R110): the trace unit completes the owner's trace and hands its results on, the observation unit takes the
report, the owner is cleared, and the verdict is written if it is complete. -/
def State.coilDone (s : State) (c : Chan) (ending : CoilEnding) (phase : Option ChanState) (live : Bool) : State :=
  match (s.channel c).owner with
  | none => s
  | some o =>
    match s.trial o.slot with
    | none => s
    | some t =>
      let completing := decide (ending ≠ .withdrawn) && (s.tru.fillingFor o.number).isSome
      let s1 := if ending = .withdrawn then s else s.setTru (s.tru.complete o.number .ended)
      let rep := s1.coilReport c ending phase t
      let s2 := s1.setTru { s1.tru with results := s1.tru.results.set c none }
      let s3 := s2.setChannel c (s2.channel c).reported
      let s4 := s3.setObu { s3.obu with coils := s3.obu.coils.set o.slot (some rep) }
      s4.completionScan completing live fun s => s.finishIfComplete o.slot live

/-- A channel trips (R107). -/
def State.tripChannel (s : State) (c : Chan) (value : Adc) : State :=
  let ch := s.channel c
  ((s.setChannel c (ch.trip value s.T)).coilDone c .fault (some ch.state) true).raise .fault

/-- The end of a scan conversion: the value is appended where it is kept, and then checked against the trip level; a trace
that it fills completes (R106, R115, R121). -/
def State.deliverSample (s : State) : State :=
  match s.tru.scanList with
  | [] => s
  | (c, v) :: rest =>
    let s1 := s.setTru { s.tru with scanList := rest, converted := s.tru.converted + 1 }
    let ch := s.channel c
    match s1.tru.keeps ch with
    | none => if ch.trips v then s1.tripChannel c v else s1
    | some b =>
      let full := s1.tru.fills b
      let s2 := s1.setTru (s1.tru.appendTo b v ch.state)
      if ch.trips v then s2.completionScan full true fun s => s.tripChannel c v else s2.scanIf full

/-- A list with each element inserted at a freely chosen place: some order of its elements (log entry 6). -/
def freeOrder (choice : Nat) : List Chan → List Chan
  | [] => []
  | [c] => [c]
  | c :: c' :: rest =>
    (freeOrder (choice + 1) (c' :: rest)).insertIdx (Config.place choice % (rest.length + 2)) c

/-- The traces of the channels whose profile starts at this boundary take their t_b (R119). -/
def startTraces (u : Tru) (channels : Vector Channel 16) (t : Time) : Tru :=
  allChannels.foldl (fun u c =>
    match (channels[c]).startPending, (channels[c]).owner with
    | true, some o => u.startTrace o.number t
    | _, _ => u) u

/-- A PWM boundary: every channel takes it, profiles start and end, and the coil dones of those that ended follow in a free
order (R98, R101, R102). -/
def State.boundary (s : State) : State :=
  let old := s.cdu.channels
  let ended := allChannels.filter fun c => ((old[c]).boundary s.T).2
  let s1 := s.setCdu { channels := old.map fun c => (c.boundary s.T).1, periodStart := s.T }
  let s2 := s1.setTru { startTraces s1.tru old s.T with scanBegun := false }
  let done := fun (s : State) (c : Chan) => s.coilDone c .complete none true
  if ended.length < 2 then ended.foldl done s2
  else (freeOrder s2.choices ended).foldl done { s2 with choices := s2.choices + ended.length }

/-! ## The drive link -/

/-- The link leaves for IDLE or FAULT: LINK_REQUEST is released, the FAULT flag set in FAULT, and the owner's final report
handed on, with which the verdict is written (R150, R165, R166). -/
def State.linkLeave (s : State) (d : Dlk) (final : LinkState) (live : Bool) : State :=
  let s1 := (s.setDlk (d.left final)).assertRequest false
  let s2 := if final = .fault then s1.raise .fault else s1
  match d.owner with
  | none => s2
  | some o =>
    ((s2.setObu { s2.obu with drives := s2.obu.drives.set o.slot (some d.report) }).writeVerdict o.slot none).scanIf live

/-- What the judging of an answer leads to. -/
def State.linkStep (s : State) (x : LinkStep) : State :=
  match x with
  | .stay d => s.setDlk d
  | .leave d final => s.linkLeave d final true

/-- A cancel of the ACTIVE DRIVE trial (R163). -/
def State.linkCancel (s : State) (live : Bool) : State :=
  match s.dlk.state with
  | .checking => s.linkLeave s.dlk .idle live
  | .owned => s.setDlk (s.dlk.formPlan s.T [.base, .release])
  | .idle => s
  | .releasing => s
  | .fault => s

/-- An entry into HALTED reaches the link (R164). -/
def State.linkHalt (s : State) (cause : HaltCause) : State :=
  match s.dlk.state with
  | .checking => s.linkLeave s.dlk .idle true
  | .owned => s.setDlk (s.dlk.formPlan s.T (match cause with | .stop => [.stop, .release] | .halt => [.base, .release]))
  | .releasing => match cause with | .stop => s.setDlk s.dlk.tellStop | .halt => s
  | .idle => s
  | .fault => s

/-- A going-active edge of the LINK_BUSY line (R154, R162). -/
def State.busyEdge (s : State) : State :=
  match s.dlk.state with
  | .checking => s.setDlk { s.dlk with busySeen := true }
  | .owned => s.linkLeave (s.dlk.takeBack s.T) .idle true
  | .releasing => s.linkLeave (s.dlk.takeBack s.T) .idle true
  | .idle => s
  | .fault => s

/-- The handover check's deadline (R155). -/
def State.checkDue (s : State) : State :=
  if s.dlk.busySeen then s.linkLeave { s.dlk with abort := some .conflict } .idle true
  else s.setDlk (s.dlk.own s.T s.ltr.V)

/-! ## Trials removed while ARMED -/

/-- An ARMED trial whose entry is gone ends: its trace completes with no samples and its verdict is written (R67, R72, R90). -/
def State.endArmed (s : State) (k : Slot) (loss : Option Reason) (cause : TraceCause) (live : Bool) : State :=
  match s.trial k with
  | none => s
  | some t =>
    if t.state = .armed then
      (s.setTru (s.tru.complete t.number cause)).completionScan (s.tru.fillingFor t.number).isSome live
        fun s => (s.writeVerdict k loss).scanIf live
    else s

/-- The fire list without the entry of a slot. -/
def State.dropEntry (s : State) (k : Slot) : State := s.setFsc (s.fsc.filter fun e => decide (e.slot ≠ k))

/-- The end of a trial is set: CANCELLED once set is kept, and ABORTED takes the cause of a later entry into HALTED (R68, R72). -/
def State.setEnd (s : State) (k : Slot) (e : TrialEnd) : State :=
  match s.trial k with
  | none => s
  | some t => if t.ending = .cancelled then s else s.setTrial k (some { t with ending := e })

/-! ## Loss and reverse windows -/

/-- A loss or a reverse window removes every fire entry and ends every EYE trial, each group in load order; which group comes
first is a free choice when both stand (R90, R91, R141). Both groups are those that stood when the event began: that a trial
which a scan within the event arms is not ended by it is the model's choice (log entry 36). -/
def State.abortPositions (s : State) (reason : Reason) : State :=
  let fires := s.ttb.oldestFirst.filter fun k => s.fsc.any fun e => decide (e.slot = k)
  let eyes := s.eyeSlots
  let endFires := fun (s : State) => fires.foldl (fun s k => s.endArmed k (some reason) .removed true) s
  let endEyes := fun (s : State) => eyes.foldl (fun s k => s.closeEye k (some reason) true) s
  let s1 := s.setFsc []
  if fires.isEmpty || eyes.isEmpty then endEyes (endFires s1)
  else if Config.eyesFirst s1.choices then endFires (endEyes s1.choose) else endEyes (endFires s1.choose)

/-- A change of tracker state is published: the TRACK flag, and a scan (R16, R60, R187). -/
def State.trackChanged (s : State) : State := (s.raise .track).scan

/-- The tracker enters LOST: a loss and the state change are published (R14, R90, R141). -/
def State.lose (s : State) : State :=
  (((s.setLtr s.ltr.lose).raise .track).abortPositions .positionLost).scan

/-- The tracker becomes UNSYNCED; a change is published (R15, R16). -/
def State.unsync (s : State) : State :=
  if s.ltr.trust = .unsynced then s else (s.setLtr s.ltr.unsync).raise .track

/-! ## Counts, windows and home edges -/

/-- A forward count, published to FSC and OBU (R5, R84, R137). -/
def State.countForward (s : State) : State :=
  let s1 := s.setLtr s.ltr.forward
  (s1.runEntries fun e => e.onForward s1.ltr.H).moveEyes 1

/-- A backward count; a loss by reverse excursion follows it (R5, R7, R14, R85, R137). -/
def State.countBackward (s : State) : State :=
  let s1 := s.setLtr s.ltr.backward
  let s2 := (s1.runEntries fun e => e.onBackward s.ltr.H).moveEyes (-1)
  if s1.ltr.excursionLoss then s2.lose else s2

/-- An illegal transition (R6, R14). -/
def State.illegal (s : State) : State :=
  let s1 := s.setLtr s.ltr.illegal
  if s.ltr.trust = .synced then s1.lose else s1

/-- A window close: refresh or removal in FSC and OBU, and the drive link's record (R9, R86, R91, R141, R157). -/
def State.closeWindow (s : State) : State :=
  let s1 := s.setLtr s.ltr.closeWindow
  let s2 := match s1.ltr.dir with
    | .forward => s1.runEntries fun e => e.onRefresh s1.ltr
    | .reverse => s1.abortPositions .reverse
  s2.setDlk (s2.dlk.window s2.T s2.ltr.V)

/-- A home edge that is acted on (R11, R12). -/
def State.homeEdge (s : State) : State :=
  if s.ltr.trust = .synced then
    let l := s.ltr
    let d := l.homeOffset
    if d.natAbs ≤ l.HT then
      ((s.setLtr l.correct).runEntries fun e => e.onCorrection l d).moveEyes (-d)
    else (s.setLtr l.missHome).lose
  else (s.setLtr s.ltr.sync).trackChanged

/-! ## Halts -/

/-- A channel is forced to a stop within the halt's event, and its coil done handed on (R105). -/
def State.forceStop (s : State) (c : Chan) : State :=
  let ch := s.channel c
  if ch.startPending then (s.setChannel c ch.force).coilDone c .withdrawn none true
  else if ch.state.running then (s.setChannel c ch.force).coilDone c .forced (some ch.state) true
  else s

/-- The halt of an ACTIVE CHUTE or COIL trial (R72): its trace completes, its watch stops, its channel is forced, and its
verdict is written. -/
def State.haltCoil (s : State) (k : Slot) (t : Trial) (cause : HaltCause) : State :=
  let s1 := (s.setEnd k (.aborted cause)).setTru (s.tru.complete t.number .halted)
  let s2 := s1.endWatch k Watch.stop
  let s3 := match t.held.channel with | some c => s2.forceStop c | none => s2
  (s3.writeVerdict k none).scan

/-- One trial on the entry into HALTED (the table of R72). -/
def haltOne (cause : HaltCause) (s : State) (k : Slot) : State :=
  match s.trial k with
  | none => s
  | some t =>
    match t.state with
    | .loaded => s.setTrial k (some { t with hold := some .halted })
    | .armed => (s.setEnd k (.aborted cause)).endArmed k none .halted true
    | .active =>
      match t.target.kind with
      | .chute => s.haltCoil k t cause
      | .coil => s.haltCoil k t cause
      | .eye => (s.setEnd k (.aborted cause)).closeEye k none true
      | .drive => (s.setEnd k (.aborted cause)).linkHalt cause

/-- A channel with every output off and nothing pending, as R71 and R105 ask of each while HALTED; a channel that the halt's
trials have left IDLE or in FAULT is not changed. -/
def Channel.silence (c : Channel) : Channel :=
  if c.state = .fault then { c with startPending := false, returnRequested := false }
  else if c.startPending ∨ c.state.running then c.force.reported
  else c

/-- The entry into HALTED (R33, R70 to R72): run control and the HALT flag, the safe levels, every fire entry removed, every
trial dealt with oldest first, and every coil output off. -/
def State.enterHalted (s : State) (cause : HaltCause) : State :=
  let s1 := (s.setTtb { s.ttb with run := .halted cause }).raise .halt
  let s2 := (s1.setLmx s1.lmx.applySafe).setFsc []
  let s3 := s.ttb.oldestFirst.foldl (haltOne cause) s2
  s3.setCdu { s3.cdu with channels := s3.cdu.channels.map Channel.silence }

/-- A STOP that reaches TTB while HALTED: the cause becomes STOP, a releasing link is told of it, and the releasing trial's
ABORTED end takes the reason STOP (R70, R164). -/
def State.stopWhileHalted (s : State) : State :=
  let s1 := s.setTtb { s.ttb with run := .halted .stop }
  match s1.dlk.state, s1.dlk.owner with
  | .releasing, some o =>
    let s2 := s1.setDlk s1.dlk.tellStop
    match s2.trial o.slot with
    | some t =>
      match t.ending with
      | .aborted _ => s2.setTrial o.slot (some { t with ending := .aborted .stop })
      | .open_ => s2
      | .cancelled => s2
    | none => s2
  | _, _ => s1

/-- A STOP assertion at TTB (R31, R70). -/
def State.stopAssert (s : State) : State :=
  match s.ttb.run with
  | .running => s.enterHalted .stop
  | .halted _ => s.stopWhileHalted

/-! ## Edges -/

/-- OBU takes an edge of an EYE line: it goes to the line's observer, or is discarded (R129, R131, R138). -/
def State.eyeEdge (s : State) (l : LineNo) (goingActive : Bool) (raw : Time) (g : Nat) : State :=
  match s.obu.observers[l] with
  | none => s
  | some o =>
    match s.obu.watches[o.slot], s.obu.eyes[o.slot] with
    | some w, _ => s.setObu { s.obu with watches := s.obu.watches.set o.slot (some (w.edge goingActive raw)) }
    | none, some e =>
      s.setObu { s.obu with eyes := s.obu.eyes.set o.slot (some (e.edge s.ltr.P s.ltr.V g goingActive)) }
    | none, none => s

/-- An accepted edge of line `l`: the new level is accepted, and the edge event goes to the consumer of the line's function
(R10, R22, R27 to R29, R31). -/
def State.acceptEdge (s : State) (l : LineNo) : State :=
  let x := (s.line l).accept
  let s1 := s.setLine l x
  match x.cfg.fn with
  | .unused => s1
  | .general => s1
  | .linkRequest => s1
  | .home => if x.active && decide (s1.ltr.dir = .forward) then s1.homeEdge else s1
  | .eye => s1.eyeEdge l x.active (rawTime s1.T x.cfg.g) x.cfg.g
  | .stop => if x.active then s1.stopAssert else s1
  | .linkBusy => if x.active then s1.busyEdge else s1

/-! ## Cancels -/

/-- What a cancel did to a trial (R66 to R68), in the order of the CancelTrial codes of R185. -/
inductive CancelResult where
  | removed
  | written
  | ending
  | already
  deriving DecidableEq, Repr

/-- A cancel reaches the channel that a trial holds (R104). -/
def State.cancelChannel (s : State) (c : Chan) (live : Bool) : State :=
  let ch := s.channel c
  let s1 := s.setChannel c ch.cancel
  if ch.startPending then s1.coilDone c .withdrawn none live else s1

/-- The cancel of an ACTIVE CHUTE or COIL trial (R68): its watch stops, its trace completes, its channel is brought back, and
its verdict is written if its coil done is in. -/
def State.cancelCoil (s : State) (k : Slot) (t : Trial) (live : Bool) : State :=
  let s1 := s.endWatch k Watch.stop
  let s2 := s1.setTru (s1.tru.complete t.number .cancelled)
  s2.completionScan (s1.tru.fillingFor t.number).isSome live fun s =>
    (match t.held.channel with | some c => s.cancelChannel c live | none => s).finishIfComplete k live

/-- The cancel of the trial in a slot (R66 to R68). -/
def State.cancelSlot (s : State) (k : Slot) (live : Bool) : State × CancelResult :=
  match s.trial k with
  | none => (s, .already)
  | some t =>
    match t.state with
    | .loaded => ((s.setTtb (s.ttb.empty k t.held)).scanIf live, .removed)
    | .armed => (((s.setEnd k .cancelled).dropEntry k).endArmed k none .cancelled live, .written)
    | .active =>
      if t.ending ≠ .open_ then (s, .already)
      else
        let s1 := s.setEnd k .cancelled
        let s2 := match t.target.kind with
          | .chute => s1.cancelCoil k t live
          | .coil => s1.cancelCoil k t live
          | .eye => s1.closeEye k none live
          | .drive => s1.linkCancel live
        (s2, if (s2.trial k).isNone then .written else .ending)

/-- The counts of a CancelAll reply: removed, written, left ending (R69). -/
structure CancelCounts where
  removed : Nat
  written : Nat
  ending : Nat
  deriving DecidableEq, Repr

def CancelCounts.add (n : CancelCounts) : CancelResult → CancelCounts
  | .removed => { n with removed := n.removed + 1 }
  | .written => { n with written := n.written + 1 }
  | .ending => { n with ending := n.ending + 1 }
  | .already => { n with ending := n.ending + 1 }

/-- CancelAll: every occupied slot, oldest first, with no scan between (R69). -/
def State.cancelAll (s : State) : State × CancelCounts :=
  s.ttb.oldestFirst.foldl (fun acc k => let r := acc.1.cancelSlot k false; (r.1, acc.2.add r.2))
    (s, { removed := 0, written := 0, ending := 0 })

end Sys2Proof.Machine
end

