-- ==== Sys2Proof/Machine/Replies.lean ====
section
/-! DEFINITION. The payloads of the replies (R185, R189, R190, R193 and the rules that name each reply's fields). -/

namespace Sys2Proof.Machine

/-- Identify (R189). The revision and each capacity are carried in one byte: the model's choice (log entry 19). -/
def State.identifyPayload (s : State) : List Byte :=
  beBytes 2 Config.vendorCode ++ beBytes 2 Config.partCode ++ byte Config.revision
    ++ byte 48 ++ byte Config.logPlaces ++ byte 16 ++ byte 48 ++ byte 4 ++ byte 8 ++ byte s.hlk.strap.val

/-- The hold reasons as they stand, in slot order (R63). -/
def Ttb.holdReasons (b : Ttb) : List HoldReason := allSlots.filterMap fun k => (b.slots[k]).bind Trial.hold

/-- Status (R190): every block's items as they stand, and after them the hold reasons, which R63 has Status report. R190's table
does not list them: that they stand last, after their number and in slot order, is the model's choice (log entry 11). -/
def State.statusPayload (s : State) : List Byte :=
  byte (presence [s.ttb.run.cause.isSome])
    ++ beBytes 4 s.T.toNat
    ++ byte s.ltr.trust.code ++ beBytes 3 s.ltr.H ++ beBytes 2 s.ltr.V ++ byte s.ltr.dir.code
    ++ beSigned 3 s.ltr.lastCorrection
    ++ byte s.ttb.run.code ++ optBytes 1 (s.ttb.run.cause.map HaltCause.code) ++ byte (boolCode s.lmx.stopHolds)
    ++ byte (s.ttb.countState .loaded) ++ byte (s.ttb.countState .armed) ++ byte (s.ttb.countState .active)
    ++ byte s.vlg.occupied ++ byte s.vlg.reserved
    ++ byte s.fsc.length
    ++ byte s.dlk.state.code
    ++ allChannels.flatMap (fun c => byte (s.channel c).state.code)
    ++ byte s.hlk.flagMask
    ++ byte s.ttb.holdReasons.length ++ s.ttb.holdReasons.flatMap (fun h => byte h.code)

/-- Subscribe (R188): the subscriptions now held, and the flags and OVERRUN as they stand. -/
def State.subscribePayload (s : State) : List Byte := byte s.hlk.subs.mask ++ byte s.hlk.flagMask

/-- SetLoop (R2): N, P, L and HT as now held. -/
def State.setLoopPayload (s : State) : List Byte :=
  beBytes 2 s.ltr.N ++ beBytes 2 s.ltr.P ++ beBytes 3 s.ltr.L ++ beBytes 2 s.ltr.HT

/-- SetZone (R41): the bases carried, now held, and whether each window was moved from `z`. -/
def Zmr.setZonePayload (z : Zmr) (a b : Nat) : List Byte :=
  beBytes 2 a ++ beBytes 2 b ++ byte (boolCode (decide (a ≠ z.baseA))) ++ byte (boolCode (decide (b ≠ z.baseB)))

/-- An eye line, 255 for none (R183). -/
def eyeLineCode : Option LineNo → Nat
  | none => 255
  | some l => l.val

/-- A coil profile as carried (R45). -/
def Profile.bytes (p : Profile) : List Byte :=
  beBytes 2 p.pullDuty ++ beBytes 2 p.pullPeriods ++ beBytes 2 p.holdDuty ++ beBytes 2 p.holdPeriods ++ byte p.dead
    ++ beBytes 2 p.returnDuty ++ beBytes 2 p.returnPeriods ++ beBytes 2 p.recover ++ beBytes 2 p.trip

/-- The trace fields as carried, after the trace enable (R46). -/
def TraceFields.bytes (f : TraceFields) : List Byte :=
  byte f.m ++ beBytes 2 f.theta ++ beBytes 2 f.cMin ++ beBytes 3 f.dipMin ++ beBytes 3 f.dipMax ++ beBytes 2 f.holdLo
    ++ beBytes 2 f.holdHi

/-- A chute record's fields after the chute number (R44 to R46). -/
def ChuteRecord.bytes (r : ChuteRecord) : List Byte :=
  beBytes 3 r.S ++ beBytes 2 r.tau ++ byte (eyeLineCode r.eyeLine) ++ beBytes 3 r.wOpen ++ beBytes 3 r.wClose
    ++ beBytes 3 r.wLate ++ r.profile.bytes ++ byte (boolCode r.traceOn) ++ r.trace.bytes

/-- SetChute (R47): the chute number, the channel, and every field. -/
def ChuteRecord.setChutePayload (r : ChuteRecord) (n : Chan) : List Byte := beBytes 2 r.chute ++ byte n.val ++ r.bytes

/-- SetEye (R48): the index and every field; an expected length of none is 0 (R183). -/
def EyeRecord.setEyePayload (r : EyeRecord) (k : Fin 16) : List Byte :=
  byte k.val ++ byte r.line.val ++ beBytes 3 r.X ++ beBytes 2 r.tol ++ optBytes 2 r.expected ++ beBytes 2 r.lenTol
    ++ byte r.passes

/-- SetDrive (R49): the index and every field. -/
def DriveRecord.setDrivePayload (r : DriveRecord) (k : Fin 8) : List Byte :=
  byte k.val ++ byte r.select.val ++ beBytes 2 r.base ++ beBytes 2 r.maximum ++ byte r.checkMs ++ beBytes 2 r.riseLimit
    ++ beBytes 2 r.overshootLimit ++ beBytes 2 r.band

/-- SetLine (R36): the line, its base configuration, its effective direction and pull-up, and its accepted level. -/
def FieldLine.setLinePayload (x : FieldLine) (l : LineNo) : List Byte :=
  byte l.val ++ byte x.cfg.dir.code ++ byte x.cfg.output.code ++ byte x.cfg.safe.code ++ byte (boolCode x.cfg.pullUp)
    ++ byte x.cfg.active.code ++ byte x.cfg.g ++ byte x.cfg.fn.code ++ byte x.effDir.code ++ byte (boolCode x.effPull)
    ++ byte x.accepted.code

/-- The level a line drives as ReadLines carries it, 0 while it drives none (R185). -/
def drivenCode : Option Level → Nat
  | none => 0
  | some v => v.code

/-- One line of ReadLines (R37, R185). -/
def FieldLine.readPayload (x : FieldLine) (asserted : Bool) : List Byte :=
  byte x.cfg.fn.code
    ++ byte (x.cfg.dir.code + 2 * x.effDir.code + 4 * x.cfg.output.code + 8 * x.cfg.safe.code + 16 * boolCode x.effPull
        + 32 * x.cfg.active.code + 64 * x.accepted.code + 128 * boolCode x.active)
    ++ byte x.cfg.g ++ byte (drivenCode (x.driven asserted))

/-- ReadLines (R37, R185). -/
def State.readLinesPayload (s : State) : List Byte := allLines.flatMap fun l => (s.line l).readPayload s.lmx.asserted

/-- ReadAnalog (R117): each input with its result, and the T at which the last conversion ended. -/
def analogPayload (results : List (AnalogInput × Adc)) (t : Time) : List Byte :=
  byte results.length ++ results.flatMap (fun r => byte r.1.code ++ beBytes 2 r.2.toNat) ++ beBytes 4 t.toNat

/-- LoadTrial (R57): the slot, the load order, the state after the scan, and the hold reason while LOADED. -/
def Trial.loadPayload (t : Trial) (k : Slot) : List Byte :=
  byte (presence [t.hold.isSome]) ++ byte k.val ++ beBytes 4 t.loadOrder.toNat ++ byte t.state.code
    ++ optBytes 1 (t.hold.map HoldReason.code)

/-- The codes of a CancelTrial reply (R185). -/
def CancelResult.code : CancelResult → Nat
  | .removed => 0
  | .written => 1
  | .ending => 2
  | .already => 3

/-- CancelAll (R69): removed, written, left ending. -/
def CancelCounts.payload (n : CancelCounts) : List Byte := byte n.removed ++ byte n.written ++ byte n.ending

/-- The rank of a trial by load order among the occupied trials, 0 for the oldest (R74). -/
def Ttb.rank (b : Ttb) (t : Trial) : Nat :=
  allSlots.countP fun k =>
    match b.slots[k] with
    | some u => decide (b.age t < b.age u)
    | none => false

/-- Bits 2 to 5 of byte 3 of a ReadTable entry (R185). -/
def Trial.detailCode (t : Trial) : Nat :=
  match t.state with
  | .loaded => match t.hold with | some h => h.code | none => 0
  | .armed => 0
  | .active => t.ending.code

/-- One occupied slot of ReadTable (R74, R185). -/
def Ttb.entryPayload (b : Ttb) (k : Slot) (t : Trial) : List Byte :=
  byte (k.val + 64 * t.target.kind.code) ++ beBytes 2 t.number ++ byte (t.state.code + 4 * t.detailCode) ++ byte (b.rank t)

/-- ReadTable (R74, R185): the occupied slots, in slot order. -/
def Ttb.readTablePayload (b : Ttb) : List Byte :=
  allSlots.flatMap fun k =>
    match b.slots[k] with
    | some t => b.entryPayload k t
    | none => []

/-- ReadLog (R173, R193): the number taken, occupied after the removal, reserved at the request, and the records. -/
def Vlg.readLogPayload (v : Vlg) (n : Nat) : List Byte :=
  byte n ++ byte (v.remove n).occupied ++ byte v.reserved ++ (v.records.take n).flatMap Verdict.bytes

/-- ReadTrace (R123): t_b and the completion cause may be absent; the samples stand after their number. -/
def Trace.readPayload (tr : Trace) (b : Buf) (offset count : Nat) : List Byte :=
  byte (presence [tr.tb.isSome, tr.completion.isSome]) ++ byte b.val ++ beBytes 2 tr.number ++ byte tr.channel.val
    ++ byte tr.fields.m ++ optBytes 4 (tr.tb.map BitVec.toNat) ++ byte tr.state.code
    ++ optBytes 1 (tr.completion.map fun x => x.1.code) ++ beBytes 2 tr.samples.length ++ beBytes 2 tr.nPull
    ++ beBytes 2 tr.nHold ++ beBytes 2 tr.nReturn ++ byte offset ++ byte (tr.slice offset count).length
    ++ (tr.slice offset count).flatMap fun x => beBytes 2 x.toNat

/-- Halt (R70): run control and the cause; run control is HALTED after a Halt, so both are always present. -/
def RunControl.haltPayload (r : RunControl) : List Byte := byte r.code ++ optBytes 1 (r.cause.map HaltCause.code)

/-- ClearChannel (R109): the channel and the fault record as it stood. -/
def FaultRecord.payload (f : FaultRecord) (c : Chan) : List Byte :=
  byte c.val ++ byte f.phase.code ++ beBytes 3 f.p ++ beBytes 2 f.value.toNat ++ beBytes 4 f.t.toNat

end Sys2Proof.Machine
end

