-- ==== Sys2Proof/Machine/Events.lean ====
section
/-! DEFINITION. The meanings of the commands that are not requests: resets, encoder, field lines, PWM periods and conversions,
watches, the drive link, and the host line. Each is due when the state allows the event at that T (log entry 2). -/

namespace Sys2Proof.Machine

/-! ## Resets -/

/-- POWER_RESET (R191): every block takes its POWER reset values, T is 0, and the straps are sampled (R8, R177, R192). The
queue of commands and the count of free choices belong to the model and stay. -/
def execPowerReset (bsel1 bsel0 : Level) (s : State) : Host.Outcome State Fault Refusal :=
  .next { State.reset with hlk := { Hlk.reset with strap := strapCode bsel1 bsel0 }, choices := s.choices, pending := s.pending }

/-- The state after a SOFT reset at T: T, the window schedule, the PWM period and the line rate go on (R19, R98, R192). -/
def State.softReset (s : State) : State :=
  { State.reset with T := s.T, ltr := { Ltr.reset with nextClose := nextWindow s.T },
                     cdu := { Cdu.reset with periodStart := s.cdu.periodStart },
                     tru := { Tru.reset with scanBegun := s.tru.scanBegun },
                     hlk := { Hlk.reset with strap := s.hlk.strap }, choices := s.choices, pending := s.pending }

/-- SOFT_RESET (R191): it follows the last stop bit of the Reset reply, when every block takes its SOFT reset values. -/
def execSoftReset (dt : Time) (s : State) : Host.Outcome State Fault Refusal :=
  timed (fun s => decide (s.hlk.resetPhase = .due)) State.softReset dt s

/-! ## Encoder and windows -/

/-- The decoder has a reference (R4). -/
def State.decoding (s : State) : Bool := s.ltr.ref.isSome

/-- FORWARD_COUNT (R5). -/
def execForwardCount (dt : Time) (s : State) : Host.Outcome State Fault Refusal :=
  timed State.decoding State.countForward dt s

/-- BACKWARD_COUNT (R5). -/
def execBackwardCount (dt : Time) (s : State) : Host.Outcome State Fault Refusal :=
  timed State.decoding State.countBackward dt s

/-- ILLEGAL_TRANSITION (R6). -/
def execIllegalTransition (dt : Time) (s : State) : Host.Outcome State Fault Refusal :=
  timed State.decoding State.illegal dt s

/-- FIRST_DECODER_SAMPLE (R4): the first sample after a reset becomes the reference and yields no count. -/
def execFirstDecoderSample (dt : Time) (enca encb : Level) (s : State) : Host.Outcome State Fault Refusal :=
  timed (fun s => !s.decoding) (fun s => s.setLtr (s.ltr.firstSample enca encb)) dt s

/-- WINDOW_CLOSE (R8, R9): at the T of the window schedule. -/
def execWindowClose (dt : Time) (s : State) : Host.Outcome State Fault Refusal :=
  timed (fun s => decide (s.T = s.ltr.nextClose)) State.closeWindow dt s

/-! ## Field lines -/

/-- ACCEPTED_EDGE (R27): a differing sample brings the line's filter count to g + 1. -/
def execAcceptedEdge (dt : Time) (line : LineNo) (s : State) : Host.Outcome State Fault Refusal :=
  timed (fun s => (s.line line).ripe) (fun s => s.acceptEdge line) dt s

/-- LINE_SAMPLE (R27): a sample with which no edge is accepted. The first sample after a reset forms no edge (R30), and the model
makes no STOP assertion of it either, though the line hold STOP and turn active with it (R31; the model's choice, log entry 8). -/
def execLineSample (dt : Time) (line : LineNo) (level : Level) (s : State) : Host.Outcome State Fault Refusal :=
  timed (fun s => !(s.line line).isEdge level) (fun s => s.setLine line ((s.line line).sample level)) dt s

/-! ## PWM periods and conversions -/

/-- PERIOD_BOUNDARY (R98, R101): 50 µs after the boundary before it. The first boundary after a POWER reset that a channel and its
guard take is the one at T = 50, the moment of the reset being none: the model's choice (log entry 38). -/
def execPeriodBoundary (dt : Time) (s : State) : Host.Outcome State Fault Refusal :=
  timed (fun s => decide (s.T = s.cdu.periodStart + 50)) State.boundary dt s

/-- The scan begins: the list is chosen and held, and pending reads join it (R114, R117). -/
def Tru.beginScan (u : Tru) (channels : Vector Channel 16) (sense : Vector Adc 16) : Tru :=
  { u with scanBegun := true, scanList := scanListOf channels sense, converted := 0,
           readsJoined := !u.pendingReads.isEmpty }

/-- SCAN_START (R114): 25 µs into the period. -/
def execScanStart (dt : Time) (sense : Vector Adc 16) (s : State) : Host.Outcome State Fault Refusal :=
  timed (fun s => !s.tru.scanBegun && decide (s.T = s.cdu.periodStart + 25))
    (fun s => s.setTru (s.tru.beginScan s.cdu.channels sense)) dt s

/-- T is the end of the period's next conversion: the k-th ends at boundary + 25 + k µs (R114, R117). -/
def State.conversionEnds (s : State) : Bool :=
  s.tru.scanBegun && decide (s.T = s.cdu.periodStart + BitVec.ofNat 32 (26 + s.tru.converted))

/-- SAMPLE_DELIVERY (R115): the end of the conversion of the next channel of the scan list. -/
def execSampleDelivery (dt : Time) (s : State) : Host.Outcome State Fault Refusal :=
  timed (fun s => s.conversionEnds && !s.tru.scanList.isEmpty) State.deliverSample dt s

/-- The pending reads are all converted: the handler places the ReadAnalog reply and returns to IDLE (R117, R182). -/
def State.answerAnalog (s : State) : State :=
  match s.hlk.handler with
  | .idle => s
  | .waiting tag =>
    (s.setTru { s.tru with readsJoined := false, readResults := [] }).setHlk
      { s.hlk with handler := .idle,
                   reply := some { kind := 0x8C#8, tag := tag, payload := analogPayload s.tru.readResults s.T } }

/-- A pending read's conversion ends with its result (R117, R118). -/
def State.convertRead (s : State) (value : Adc) : State :=
  match s.tru.pendingReads with
  | [] => s
  | x :: rest =>
    let s1 := s.setTru { s.tru with pendingReads := rest, converted := s.tru.converted + 1,
                                    readResults := s.tru.readResults ++ [(x, value)] }
    if rest.isEmpty then s1.answerAnalog else s1

/-- ANALOG_READ_CONVERSION_END (R117): the end of the next pending read's conversion, after those of the scan list. -/
def execAnalogReadConversionEnd (dt : Time) (value : Adc) (s : State) : Host.Outcome State Fault Refusal :=
  timed (fun s => s.conversionEnds && s.tru.scanList.isEmpty && s.tru.readsJoined && !s.tru.pendingReads.isEmpty)
    (fun s => s.convertRead value) dt s

/-! ## Watches -/

/-- The watch of a slot runs, and T is its expiry (R133). -/
def State.expiryDue (s : State) (k : Slot) : Bool :=
  match s.obu.watches[k] with
  | some w => decide (w.state ≠ .ended) && decide (s.T = w.expiry)
  | none => false

/-- WATCH_EXPIRY (R133). -/
def execWatchExpiry (dt : Time) (slot : Slot) (s : State) : Host.Outcome State Fault Refusal :=
  timed (fun s => s.expiryDue slot) (fun s => s.expireWatch slot) dt s

/-! ## The drive link -/

/-- CHECK_DEADLINE (R155): T reaches the deadline of the handover check. -/
def execCheckDeadline (dt : Time) (s : State) : Host.Outcome State Fault Refusal :=
  timed (fun s => decide (s.dlk.state = .checking) && decide (s.dlk.deadline = some s.T)) State.checkDue dt s

/-- The current exchange ends 80 µs after its start (R152). -/
def State.exchangeDue (s : State) : Bool :=
  match s.dlk.cur with
  | some x => decide (s.T = x.start + 80)
  | none => false

/-- EXCHANGE_END (R152): the end of the current exchange, with the four answer bytes. -/
def execExchangeEnd (dt : Time) (status hi lo check : Byte) (s : State) : Host.Outcome State Fault Refusal :=
  timed State.exchangeDue (fun s => s.linkStep (s.dlk.exchangeEnd s.T status hi lo check)) dt s

/-! ## The host line -/

/-- HOST_BYTE_ARRIVAL (R179): a byte can arrive at any moment. -/
def execHostByteArrival (dt : Time) (byte : Byte) (stopBit : Level) (s : State) : Host.Outcome State Fault Refusal :=
  timed (fun _ => true) (fun s => s.setHlk (s.hlk.receive s.T byte stopBit)) dt s

/-- GAP_EXPIRY (R179): more than 2 ms since the last held byte. -/
def execGapExpiry (dt : Time) (s : State) : Host.Outcome State Fault Refusal :=
  timed (fun s => s.hlk.gapOver s.T) (fun s => s.setHlk s.hlk.abandon) dt s

/-- FRAME_TRANSMIT_END (R186): the last stop bit of the frame in transmission. -/
def execFrameTransmitEnd (dt : Time) (s : State) : Host.Outcome State Fault Refusal :=
  timed State.transmitDone (fun s => s.setHlk s.hlk.endTransmission) dt s

end Sys2Proof.Machine
end

