-- ==== Sys2Proof/Machine/Operands.lean ====
section
/-! DEFINITION. The fields of each request, read from the bytes of its payload (R183, R185): each in as few whole bytes as hold
its carried range, high byte first, in the order its rule lists it. A reader answers none when a named value's code, or a
number that names a line, a record or an input, is out of its range; the block then refuses with BAD_VALUE. -/

namespace Sys2Proof.Machine

/-- A number that names one of `n` things, none when it names no such thing. -/
def finOf (n x : Nat) : Option (Fin n) := if h : x < n then some ⟨x, h⟩ else none

/-- A field that is on or off (R185). -/
def boolOf (x : Nat) : Option Bool :=
  match x with
  | 0 => some false
  | 1 => some true
  | _ => none

/-- A level (R185). -/
def levelOf (x : Nat) : Option Level :=
  match x with
  | 0 => some .low
  | 1 => some .high
  | _ => none

/-- A line direction (R185). -/
def lineDirOf (x : Nat) : Option LineDir :=
  match x with
  | 0 => some .inward
  | 1 => some .outward
  | _ => none

/-- A line function, in the order of R21. -/
def lineFnOf (x : Nat) : Option LineFn :=
  match x with
  | 0 => some .unused
  | 1 => some .general
  | 2 => some .home
  | 3 => some .eye
  | 4 => some .stop
  | 5 => some .linkRequest
  | 6 => some .linkBusy
  | _ => none

/-- An input code of ReadAnalog (R183). -/
def analogOf (x : Nat) : Option AnalogInput :=
  if h : x < 16 then some (.sense ⟨x, h⟩)
  else if h : x - 16 < 4 then some (.general ⟨x - 16, h⟩)
  else none

/-- The eye line of SetChute: 255 is none (R183). The outer option is none when the number names no line. -/
def eyeLineOf (x : Nat) : Option (Option LineNo) := if x = 255 then some none else (finOf 48 x).map some

/-- The fields of SetChute: R44 at offset 0, R45 at 17, R46 at 34, 50 bytes in all. -/
def chuteRecordOf (b : List Byte) : Option ChuteRecord :=
  match eyeLineOf (field b 7 1), boolOf (field b 34 1) with
  | some eyeLine, some traceOn =>
    some { chute := field b 0 2, S := field b 2 3, tau := field b 5 2, eyeLine := eyeLine, wOpen := field b 8 3,
           wClose := field b 11 3, wLate := field b 14 3,
           profile := { pullDuty := field b 17 2, pullPeriods := field b 19 2, holdDuty := field b 21 2,
                        holdPeriods := field b 23 2, dead := field b 25 1, returnDuty := field b 26 2,
                        returnPeriods := field b 28 2, recover := field b 30 2, trip := field b 32 2 },
           traceOn := traceOn,
           trace := { m := field b 35 1, theta := field b 36 2, cMin := field b 38 2, dipMin := field b 40 3,
                      dipMax := field b 43 3, holdLo := field b 46 2, holdHi := field b 48 2 } }
  | _, _ => none

/-- The fields of SetEye (R48), 12 bytes; an expected length of 0 is none (R183). -/
def eyeRecordOf (b : List Byte) : Option (Fin 16 × EyeRecord) :=
  match finOf 16 (field b 0 1), finOf 48 (field b 1 1) with
  | some k, some line =>
    some (k, { line := line, X := field b 2 3, tol := field b 5 2,
               expected := if field b 7 2 = 0 then none else some (field b 7 2),
               lenTol := field b 9 2, passes := field b 11 1 })
  | _, _ => none

/-- The fields of SetDrive (R49), 13 bytes. -/
def driveRecordOf (b : List Byte) : Option (Fin 8 × DriveRecord) :=
  match finOf 8 (field b 0 1), finOf 8 (field b 1 1) with
  | some k, some select =>
    some (k, { select := select, base := field b 2 2, maximum := field b 4 2, checkMs := field b 6 1,
               riseLimit := field b 7 2, overshootLimit := field b 9 2, band := field b 11 2 })
  | _, _ => none

/-- The fields of SetLine (R21, R34), 8 bytes. -/
def lineConfigOf (b : List Byte) : Option (LineNo × LineConfig) :=
  match finOf 48 (field b 0 1), lineDirOf (field b 1 1), levelOf (field b 2 1), levelOf (field b 3 1),
    boolOf (field b 4 1), levelOf (field b 5 1), lineFnOf (field b 7 1) with
  | some l, some dir, some output, some safe, some pullUp, some active, some fn =>
    some (l, { dir := dir, output := output, safe := safe, pullUp := pullUp, active := active, g := field b 6 1, fn := fn })
  | _, _, _, _, _, _, _ => none

/-- The kind and parameters of LoadTrial (R54, R56 check 1), 13 bytes: the trial number, the kind, the target, the tray
(65,535 for NEXT), the step setpoint, V_exp and the duration; what the kind does not use is ignored (R183). `n` is the N
the tracker holds. -/
def targetOf (b : List Byte) (n : Nat) : Option Target :=
  let target := field b 3 2
  match field b 2 1 with
  | 0 =>
    if target ≤ 1023 then
      if field b 5 2 = 65535 then some (.chute target none)
      else if field b 5 2 < n then some (.chute target (some (field b 5 2)))
      else none
    else none
  | 1 => if target ≤ 1023 then some (.coil target) else none
  | 2 => (finOf 16 target).map .eye
  | 3 =>
    match finOf 8 target with
    | some k => if 8 ≤ field b 11 2 ∧ field b 11 2 ≤ 1000 then some (.drive k (field b 7 2) (field b 9 2) (field b 11 2)) else none
    | none => none
  | _ => none

/-- The inputs of ReadAnalog (R117, R183): the first count of the four codes. -/
def analogInputsOf (b : List Byte) : Option (List AnalogInput) :=
  let count := field b 0 1
  if 1 ≤ count ∧ count ≤ 4 then ((List.range count).map fun i => field b (i + 1) 1).mapM analogOf else none

end Sys2Proof.Machine
end

