-- ==== Sys2Proof/Machine/Requests.lean ====
section
/-! DEFINITION. The meanings of the requests: what the block that serves each one answers (R182, R183), and the serving. -/

namespace Sys2Proof.Machine

/-! ## Host link -/

/-- Identify changes no state (R189). -/
def serveIdentify (_b : List Byte) (s : State) : Answer := .reply s s.identifyPayload

/-- Status reports the flags as they stand, and clears them (R190). -/
def serveStatus (_b : List Byte) (s : State) : Answer := .reply (s.setHlk s.hlk.clearFlags) s.statusPayload

/-- Subscribe replaces the subscriptions (R188). -/
def serveSubscribe (b : List Byte) (s : State) : Answer :=
  let s1 := s.setHlk (s.hlk.subscribe (NoticeSet.ofMask (BitVec.ofNat 8 (field b 0 1))))
  .reply s1 s1.subscribePayload

/-- Reset is accepted in every state; the handler then takes no further request (R191). -/
def serveReset (_b : List Byte) (s : State) : Answer := .reply (s.setHlk { s.hlk with resetPhase := .replyWaiting }) []

/-! ## Loop tracker -/

/-- An accepted SetLoop: a tracker that leaves SYNCED or LOST publishes it; the acceptance causes a scan (R3, R16, R60). -/
def State.applySetLoop (s : State) (n p ht : Nat) : State :=
  let s1 := s.setLtr (s.ltr.setLoop n p ht)
  (if s.ltr.trust = .unsynced then s1 else s1.trackChanged).scan

/-- SetLoop (R2). -/
def serveSetLoop (b : List Byte) (s : State) : Answer :=
  let n := field b 0 2
  let p := field b 2 2
  if ¬(16 ≤ n ∧ n ≤ 1024) then .refused .badValue
  else if ¬(64 ≤ p ∧ p ≤ 8192) then .refused .badValue
  else if s.ttb.anyBegun (fun _ => true) then .refused .busy
  else
    let s1 := s.applySetLoop n p (field b 4 2)
    .reply s1 s1.setLoopPayload

/-! ## Zone map and target records -/

/-- SetZone (R40, R41). -/
def serveSetZone (b : List Byte) (s : State) : Answer :=
  let x := field b 0 2
  let y := field b 2 2
  if ¬(x ≤ 1016 ∧ y ≤ 1016) then .refused .badValue
  else if windowsOverlap x y then .refused .overlap
  else if s.zoneBusy x y then .refused .busy
  else .reply (s.setZmr (s.zmr.setZone x y)).scan (s.zmr.setZonePayload x y)

/-- SetChute (R47). -/
def serveSetChute (b : List Byte) (s : State) : Answer :=
  match chuteRecordOf b with
  | none => .refused .badValue
  | some r =>
    match s.zmr.channelOf r.chute with
    | none => .refused .badValue
    | some n =>
      if !r.inRange s.ltr then .refused .badValue
      else if s.ttb.chuteInUse r.chute then .refused .busy
      else .reply (s.setZmr { s.zmr with chutes := s.zmr.chutes.set n (some r) }).scan (r.setChutePayload n)

/-- SetEye (R48). -/
def serveSetEye (b : List Byte) (s : State) : Answer :=
  match eyeRecordOf b with
  | none => .refused .badValue
  | some (k, r) =>
    if !r.inRange s.ltr then .refused .badValue
    else if s.ttb.eyeInUse k then .refused .busy
    else .reply (s.setZmr { s.zmr with eyes := s.zmr.eyes.set k (some r) }).scan (r.setEyePayload k)

/-- SetDrive (R49). -/
def serveSetDrive (b : List Byte) (s : State) : Answer :=
  match driveRecordOf b with
  | none => .refused .badValue
  | some (k, r) =>
    if !r.inRange then .refused .badValue
    else if s.ttb.driveInUse k then .refused .busy
    else .reply (s.setZmr { s.zmr with drives := s.zmr.drives.set k (some r) }).scan (r.setDrivePayload k)

/-! ## Line matrix -/

/-- An accepted SetLine (R15, R31, R36): the configuration and the holders change; giving or taking HOME makes the tracker
UNSYNCED, with its publication; a STOP condition that begins is an assertion; and a scan follows. -/
def State.applySetLine (s : State) (l : LineNo) (cfg : LineConfig) : State :=
  let old := (s.line l).cfg
  let s1 := s.setLmx (s.lmx.configure l cfg)
  let moved := decide (old.fn = .home) != decide (cfg.fn = .home)
  let s2 := if moved && decide (s1.ltr.trust ≠ .unsynced) then s1.unsync.scan else s1
  let s3 := if s2.lmx.stopHolds && !s.lmx.stopHolds then s2.stopAssert else s2
  s3.scan

/-- SetLine (R34, R35). -/
def serveSetLine (b : List Byte) (s : State) : Answer :=
  match lineConfigOf b with
  | none => .refused .badValue
  | some (l, cfg) =>
    if s.lmx.claimed l cfg.fn then .refused .claimed
    else if s.setLineBusy l cfg then .refused .busy
    else
      let s1 := s.applySetLine l cfg
      .reply s1 ((s1.line l).setLinePayload l)

/-- ReadLines (R37). -/
def serveReadLines (_b : List Byte) (s : State) : Answer := .reply s s.readLinesPayload

/-! ## Trial table -/

/-- The record a trial would name is defined (R43). -/
def Zmr.defines (z : Zmr) : Target → Bool
  | .chute c _ => (z.chuteRecord c).isSome
  | .coil c => (z.chuteRecord c).isSome
  | .eye k => (z.eyes[k]).isSome
  | .drive k _ _ _ => (z.drives[k]).isSome

/-- The chute of a CHUTE or COIL trial is in zone (R39). -/
def Zmr.inZone (z : Zmr) (t : Target) : Bool :=
  match t.chute? with
  | some c => (z.channelOf c).isSome
  | none => true

/-- Some occupied slot carries the trial number (R54). -/
def Ttb.carries (b : Ttb) (number : Nat) : Bool :=
  allSlots.any fun k =>
    match b.slots[k] with
    | some t => decide (t.number = number)
    | none => false

/-- The slot of the trial with a number. -/
def Ttb.slotOf (b : Ttb) (number : Nat) : Option Slot :=
  allSlots.find? fun k =>
    match b.slots[k] with
    | some t => decide (t.number = number)
    | none => false

/-- The lowest EMPTY slot (R57). -/
def Ttb.lowestEmpty (b : Ttb) : Option Slot := allSlots.find? fun k => (b.slots[k]).isNone

/-- A trial as it is loaded (R57); the scan that follows gives it its hold reason or arms it. -/
def newTrial (number : Nat) (target : Target) (order : BitVec 32) : Trial :=
  { number := number, target := target, state := .loaded, loadOrder := order, hold := none, tArm := none, held := .nothing,
    ending := .open_ }

/-- An accepted LoadTrial into an EMPTY slot, before its scan (R55, R57). -/
def Ttb.load (b : Ttb) (k : Slot) (number : Nat) (target : Target) : Ttb :=
  { b with slots := b.slots.set k (some (newTrial number target b.loadCounter)), loadCounter := b.loadCounter + 1 }

/-- Checks 3 to 9 of LoadTrial (R56): the refusal of the first that fails. -/
def State.loadRefusal (s : State) (number : Nat) (t : Target) : Option RefuseReason :=
  if s.ttb.carries number then some .duplicate
  else if !s.zmr.inZone t then some .notInZone
  else if !s.zmr.defines t then some .noRecord
  else if !s.fitsLoop t then some .badValue
  else if !s.eyeReady t then some .noEye
  else if !s.traceReady t then some .noTrace
  else if !s.linesReady t then some .noLinkLines
  else none

/-- LoadTrial (R56, R57). -/
def serveLoadTrial (b : List Byte) (s : State) : Answer :=
  match targetOf b s.ltr.N with
  | none => .refused .badValue
  | some t =>
    match s.ttb.lowestEmpty with
    | none => .refused .tableFull
    | some k =>
      match s.loadRefusal (field b 0 2) t with
      | some r => .refused r
      | none =>
        let s1 := (s.setTtb (s.ttb.load k (field b 0 2) t)).scan
        .reply s1 (((s1.trial k).getD (newTrial (field b 0 2) t s.ttb.loadCounter)).loadPayload k)

/-- CancelTrial (R66 to R68). -/
def serveCancelTrial (b : List Byte) (s : State) : Answer :=
  match s.ttb.slotOf (field b 0 2) with
  | none => .refused .noTrial
  | some k =>
    let r := s.cancelSlot k true
    .reply r.1 (byte r.2.code)

/-- CancelAll (R69): one scan follows the last cancel. -/
def serveCancelAll (_b : List Byte) (s : State) : Answer :=
  let r := s.cancelAll
  .reply r.1.scan r.2.payload

/-- ReadTable (R74). -/
def serveReadTable (_b : List Byte) (s : State) : Answer := .reply s s.ttb.readTablePayload

/-- Halt (R70); while HALTED it is accepted with no change. -/
def serveHalt (_b : List Byte) (s : State) : Answer :=
  let s1 := if s.ttb.run.isHalted then s else s.enterHalted .halt
  .reply s1 s1.ttb.run.haltPayload

/-- Resume (R73); while RUNNING it is accepted with no change and no scan. -/
def serveResume (_b : List Byte) (s : State) : Answer :=
  if s.lmx.stopHolds then .refused .stopActive
  else
    let s1 := if s.ttb.run.isHalted then (s.setTtb { s.ttb with run := .running }).scan else s
    .reply s1 (byte s1.ttb.run.code)

/-! ## Trace unit -/

/-- ReadAnalog (R117): the inputs become the pending reads, and the reply waits for their conversions. -/
def serveReadAnalog (b : List Byte) (s : State) : Answer :=
  match analogInputsOf b with
  | none => .refused .badValue
  | some inputs => .waiting (s.setTru { s.tru with pendingReads := inputs, readsJoined := false, readResults := [] })

/-- ReadTrace (R122, R123). The reply shows the state as it stood before the reply itself makes the trace READ: the model's
choice (log entry 14). -/
def serveReadTrace (b : List Byte) (s : State) : Answer :=
  let offset := field b 2 2
  let count := field b 4 1
  if ¬(offset ≤ 255 ∧ 1 ≤ count ∧ count ≤ 100) then .refused .badValue
  else
    match s.tru.findTrace (field b 0 2) with
    | none => .refused .gone
    | some (k, tr) =>
      .reply (s.setTru { s.tru with buffers := s.tru.buffers.set k (some (tr.afterRead offset count)) })
        (tr.readPayload k offset count)

/-! ## Verdict log -/

/-- ReadLog (R172 to R174): the reply is made before the scan that the removal causes. -/
def serveReadLog (b : List Byte) (s : State) : Answer :=
  let count := field b 0 1
  if ¬(1 ≤ count ∧ count ≤ 8) then .refused .badValue
  else
    let n := takeCount count (Config.maxPayload - 3) s.vlg.records
    let s1 := s.setVlg (s.vlg.remove n)
    .reply (if 0 < n then s1.scan else s1) (s.vlg.readLogPayload n)

/-! ## Coil driver and drive link -/

/-- ClearChannel (R109). -/
def serveClearChannel (b : List Byte) (s : State) : Answer :=
  match finOf 16 (field b 0 1) with
  | none => .refused .notFaulted
  | some c =>
    match (s.channel c).state, (s.channel c).fault with
    | .fault, some f => .reply (s.setChannel c (s.channel c).clear).scan (f.payload c)
    | _, _ => .refused .notFaulted

/-- LinkRestart (R165): the reply carries the link state after the request, before the scan it causes. -/
def serveLinkRestart (_b : List Byte) (s : State) : Answer :=
  if s.dlk.state.engaged then .refused .busy
  else if s.dlk.state = .fault then
    .reply (s.setDlk { s.dlk with state := .idle }).scan (byte LinkState.idle.code)
  else .reply s (byte s.dlk.state.code)

/-! ## The serving of each request (R183) -/

/-- IDENTIFY. -/
def execIdentify (dt : Time) (s : State) : Host.Outcome State Fault Refusal := serve 0x01#8 0 serveIdentify dt s

/-- STATUS. -/
def execStatus (dt : Time) (s : State) : Host.Outcome State Fault Refusal := serve 0x02#8 0 serveStatus dt s

/-- SUBSCRIBE. -/
def execSubscribe (dt : Time) (s : State) : Host.Outcome State Fault Refusal := serve 0x03#8 1 serveSubscribe dt s

/-- RESET. -/
def execReset (dt : Time) (s : State) : Host.Outcome State Fault Refusal := serve 0x04#8 0 serveReset dt s

/-- SET_LOOP. -/
def execSetLoop (dt : Time) (s : State) : Host.Outcome State Fault Refusal := serve 0x05#8 6 serveSetLoop dt s

/-- SET_ZONE. -/
def execSetZone (dt : Time) (s : State) : Host.Outcome State Fault Refusal := serve 0x06#8 4 serveSetZone dt s

/-- SET_CHUTE. -/
def execSetChute (dt : Time) (s : State) : Host.Outcome State Fault Refusal := serve 0x07#8 50 serveSetChute dt s

/-- SET_EYE. -/
def execSetEye (dt : Time) (s : State) : Host.Outcome State Fault Refusal := serve 0x08#8 12 serveSetEye dt s

/-- SET_DRIVE. -/
def execSetDrive (dt : Time) (s : State) : Host.Outcome State Fault Refusal := serve 0x09#8 13 serveSetDrive dt s

/-- SET_LINE. -/
def execSetLine (dt : Time) (s : State) : Host.Outcome State Fault Refusal := serve 0x0A#8 8 serveSetLine dt s

/-- READ_LINES. -/
def execReadLines (dt : Time) (s : State) : Host.Outcome State Fault Refusal := serve 0x0B#8 0 serveReadLines dt s

/-- READ_ANALOG. -/
def execReadAnalog (dt : Time) (s : State) : Host.Outcome State Fault Refusal := serve 0x0C#8 5 serveReadAnalog dt s

/-- LOAD_TRIAL. -/
def execLoadTrial (dt : Time) (s : State) : Host.Outcome State Fault Refusal := serve 0x0D#8 13 serveLoadTrial dt s

/-- CANCEL_TRIAL. -/
def execCancelTrial (dt : Time) (s : State) : Host.Outcome State Fault Refusal := serve 0x0E#8 2 serveCancelTrial dt s

/-- CANCEL_ALL. -/
def execCancelAll (dt : Time) (s : State) : Host.Outcome State Fault Refusal := serve 0x0F#8 0 serveCancelAll dt s

/-- READ_TABLE. -/
def execReadTable (dt : Time) (s : State) : Host.Outcome State Fault Refusal := serve 0x10#8 0 serveReadTable dt s

/-- READ_LOG. -/
def execReadLog (dt : Time) (s : State) : Host.Outcome State Fault Refusal := serve 0x11#8 1 serveReadLog dt s

/-- READ_TRACE. -/
def execReadTrace (dt : Time) (s : State) : Host.Outcome State Fault Refusal := serve 0x12#8 5 serveReadTrace dt s

/-- HALT. -/
def execHalt (dt : Time) (s : State) : Host.Outcome State Fault Refusal := serve 0x13#8 0 serveHalt dt s

/-- RESUME. -/
def execResume (dt : Time) (s : State) : Host.Outcome State Fault Refusal := serve 0x14#8 0 serveResume dt s

/-- CLEAR_CHANNEL. -/
def execClearChannel (dt : Time) (s : State) : Host.Outcome State Fault Refusal := serve 0x15#8 1 serveClearChannel dt s

/-- LINK_RESTART. -/
def execLinkRestart (dt : Time) (s : State) : Host.Outcome State Fault Refusal := serve 0x16#8 0 serveLinkRestart dt s

/-- A kind of the request table (R183). -/
def knownKind (k : Byte) : Bool := decide (1 ≤ k.toNat ∧ k.toNat ≤ 0x16)

/-- UNKNOWN_KIND (R182): a request whose kind is not in the table of R183 is refused without any block being told. -/
def execUnknownKind (dt : Time) (s : State) : Host.Outcome State Fault Refusal :=
  let s1 := s.after dt
  match s1.hlk.nextRequest with
  | none => .next s
  | some (f, rest) =>
    if knownKind f.kind then .next s else .next ((s1.taken rest).answer f (.refused .unknownKind)).kick

end Sys2Proof.Machine
end

