-- ==== Sys2Proof/Machine/Dispatch.lean ====
section
/-! DEFINITION. The dispatch: one arm per command of the table. -/

namespace Sys2Proof.Machine

def exec (i : Instr) (s : State) : Host.Outcome State Fault Refusal :=
  match i with
  | .powerReset bsel1 bsel0 => Sys2Proof.Machine.execPowerReset bsel1 bsel0 s
  | .softReset dt => Sys2Proof.Machine.execSoftReset dt s
  | .forwardCount dt => Sys2Proof.Machine.execForwardCount dt s
  | .backwardCount dt => Sys2Proof.Machine.execBackwardCount dt s
  | .illegalTransition dt => Sys2Proof.Machine.execIllegalTransition dt s
  | .windowClose dt => Sys2Proof.Machine.execWindowClose dt s
  | .acceptedEdge dt line => Sys2Proof.Machine.execAcceptedEdge dt line s
  | .periodBoundary dt => Sys2Proof.Machine.execPeriodBoundary dt s
  | .scanStart dt sense => Sys2Proof.Machine.execScanStart dt sense s
  | .sampleDelivery dt => Sys2Proof.Machine.execSampleDelivery dt s
  | .analogReadConversionEnd dt value => Sys2Proof.Machine.execAnalogReadConversionEnd dt value s
  | .watchExpiry dt slot => Sys2Proof.Machine.execWatchExpiry dt slot s
  | .checkDeadline dt => Sys2Proof.Machine.execCheckDeadline dt s
  | .exchangeEnd dt status hi lo check => Sys2Proof.Machine.execExchangeEnd dt status hi lo check s
  | .hostByteArrival dt byte stopBit => Sys2Proof.Machine.execHostByteArrival dt byte stopBit s
  | .gapExpiry dt => Sys2Proof.Machine.execGapExpiry dt s
  | .frameTransmitEnd dt => Sys2Proof.Machine.execFrameTransmitEnd dt s
  | .identify dt => Sys2Proof.Machine.execIdentify dt s
  | .status dt => Sys2Proof.Machine.execStatus dt s
  | .subscribe dt => Sys2Proof.Machine.execSubscribe dt s
  | .reset dt => Sys2Proof.Machine.execReset dt s
  | .setLoop dt => Sys2Proof.Machine.execSetLoop dt s
  | .setZone dt => Sys2Proof.Machine.execSetZone dt s
  | .setChute dt => Sys2Proof.Machine.execSetChute dt s
  | .setEye dt => Sys2Proof.Machine.execSetEye dt s
  | .setDrive dt => Sys2Proof.Machine.execSetDrive dt s
  | .setLine dt => Sys2Proof.Machine.execSetLine dt s
  | .readLines dt => Sys2Proof.Machine.execReadLines dt s
  | .readAnalog dt => Sys2Proof.Machine.execReadAnalog dt s
  | .loadTrial dt => Sys2Proof.Machine.execLoadTrial dt s
  | .cancelTrial dt => Sys2Proof.Machine.execCancelTrial dt s
  | .cancelAll dt => Sys2Proof.Machine.execCancelAll dt s
  | .readTable dt => Sys2Proof.Machine.execReadTable dt s
  | .readLog dt => Sys2Proof.Machine.execReadLog dt s
  | .readTrace dt => Sys2Proof.Machine.execReadTrace dt s
  | .halt dt => Sys2Proof.Machine.execHalt dt s
  | .resume dt => Sys2Proof.Machine.execResume dt s
  | .clearChannel dt => Sys2Proof.Machine.execClearChannel dt s
  | .linkRestart dt => Sys2Proof.Machine.execLinkRestart dt s
  | .unknownKind dt => Sys2Proof.Machine.execUnknownKind dt s
  | .firstDecoderSample dt enca encb => Sys2Proof.Machine.execFirstDecoderSample dt enca encb s
  | .lineSample dt line level => Sys2Proof.Machine.execLineSample dt line level s

end Sys2Proof.Machine
end

