-- ==== Sys2Proof/Machine/Pins.lean ====
section
/-! DEFINITION. The output pins as views of the state: PULLn and RETn within a PWM period (R98, R99), the field lines (R22),
the drive link's selects, DCLK and DOUT (R152), and HTXD (R177). -/

namespace Sys2Proof.Machine

/-- Whether an output of duty `d` is on `x` 256ths of a period after the period's opening boundary (R98). -/
def onAt (d x : Nat) : Bool := decide (x < d)

/-- PULLn at an offset of `x` 256ths into the period. -/
def State.pullPin (s : State) (c : Chan) (x : Nat) : Bool := onAt (s.channel c).pullDuty x

/-- RETn at an offset of `x` 256ths into the period. -/
def State.retPin (s : State) (c : Chan) (x : Nat) : Bool := onAt (s.channel c).retDuty x

/-- The level a field line drives, none while it drives nothing (R22, R24). -/
def State.linePin (s : State) (l : LineNo) : Option Level := (s.line l).driven s.lmx.asserted

/-- The select output DSk at T = `t`: LOW for the first 70 µs of the exchange on it (R152). -/
def State.selectPin (s : State) (k : Fin 8) (t : Time) : Level :=
  match s.dlk.cur with
  | some x => if x.select = k ∧ (t - x.start).toNat < 70 then .low else .high
  | none => .high

/-- What the link shifts at an offset in µs from an exchange's start (R152). -/
inductive ShiftPhase where
  | resting
  | selected
  | request (bit : Nat)
  | turnaround
  | answer (bit : Nat)
  deriving DecidableEq, Repr

/-- The table of R152: 32 clocks from 2 to 34 µs, the turnaround, 32 clocks from 38 to 70 µs. -/
def shiftPhaseAt (offset : Nat) : ShiftPhase :=
  if offset < 2 then .selected
  else if offset < 34 then .request (offset - 2)
  else if offset < 38 then .turnaround
  else if offset < 70 then .answer (offset - 38)
  else .resting

/-- The bit DOUT carries in clock `i` of a request frame, most significant bit of each byte first (R152). -/
def Exchange.doutBit (x : Exchange) (i : Nat) : Bool := (x.requestFrame.getD (i / 8) 0).getMsbD (i % 8)

/-- DCLK at an offset in µs from an exchange's start, in the first or the second half of that microsecond: a clock of 1 MHz in
each of the 64 µs that shift, LOW in its first half and HIGH in its second, and LOW outside them (R152). DOUT changes on the
falling edges, so that the halves stand in this order is DEDUCED (log entry 37). -/
def clockLevel (offset : Nat) (secondHalf : Bool) : Level :=
  match shiftPhaseAt offset with
  | .request _ => if secondHalf then .high else .low
  | .answer _ => if secondHalf then .high else .low
  | .resting => .low
  | .selected => .low
  | .turnaround => .low

/-- The level at which DCLK stands when it is stopped at an offset: a free value within a clock, LOW outside (R152). -/
def stoppedClock (offset : Nat) : Level :=
  match shiftPhaseAt offset with
  | .request _ => if Config.clockHigh offset then .high else .low
  | .answer _ => if Config.clockHigh offset then .high else .low
  | .resting => .low
  | .selected => .low
  | .turnaround => .low

/-- DCLK at T = `t`, in the first or the second half of that microsecond: the clock of the current exchange, and between exchanges
LOW, or where a take-back has stopped it (R152, R167). -/
def State.dclkPin (s : State) (t : Time) (secondHalf : Bool) : Level :=
  match s.dlk.cur, s.dlk.clockStop with
  | some x, _ => clockLevel (t - x.start).toNat secondHalf
  | none, some offset => stoppedClock offset.toNat
  | none, none => .low

/-- DOUT at T = `t`: the request bit while it is shifted out, LOW in the turnaround and between exchanges (R152). LOW in the 2 µs
before the first clock and while the answer is shifted in is the model's choice (log entry 37). -/
def State.doutPin (s : State) (t : Time) : Level :=
  match s.dlk.cur with
  | none => .low
  | some x =>
    match shiftPhaseAt (t - x.start).toNat with
    | .request i => if x.doutBit i then .high else .low
    | .resting => .low
    | .selected => .low
    | .turnaround => .low
    | .answer _ => .low

/-- The bits of the frame in transmission, in the order in which they stand on HTXD; none between frames (R177, R186). -/
def State.htxdBits (s : State) : List Level :=
  match s.hlk.tx with
  | none => []
  | some x => x.frame.bytes.flatMap lineBits

/-- HTXD `ns` nanoseconds after T = `t`: the bit of the frame in transmission that the line rate has come to, and HIGH between
frames, after a reset too (R177, R191, R192). -/
def State.htxdPin (s : State) (t : Time) (ns : Nat) : Level :=
  match s.hlk.tx with
  | none => .high
  | some x => s.htxdBits.getD (((t - x.start).toNat * 1000 + ns) * baud s.hlk.strap / 1000000000) .high

end Sys2Proof.Machine
end

