-- ==== Sys2Proof/Safety.lean ====
section
/-! DEFINITION. What counts as a safe state, in the terms the statements use: the invariants that the manual states of the
whole part, the part of the state that no follow-on effect reaches, and the conditions under which a request is served. -/

namespace Sys2Proof.Machine

/-! ## Invariants -/

/-- The tracker holds a legal geometry, H lies on the loop, and its counters are in range (R1, R2, R5, R7 to R9, R12). -/
def Ltr.Sound (l : Ltr) : Prop :=
  (16 ≤ l.N ∧ l.N ≤ 1024) ∧ (64 ≤ l.P ∧ l.P ≤ 8192) ∧ l.HT ≤ l.P / 4 ∧ l.H < l.N * l.P ∧ l.R ≤ 65535 ∧ l.V ≤ 65535
    ∧ l.nextClose.toNat % 4096 = 0
    ∧ -((l.N * l.P : Nat) : Int) ≤ 2 * l.lastCorrection ∧ 2 * l.lastCorrection < ((l.N * l.P : Nat) : Int)

/-- The functions that at most one line holds (R25). -/
def LineFn.single : LineFn → Bool
  | .home => true
  | .stop => true
  | .linkRequest => true
  | .linkBusy => true
  | .unused => false
  | .general => false
  | .eye => false

/-- The recorded holder of each single-holder function is the one line that carries it (R25). -/
def Lmx.Sound (x : Lmx) : Prop :=
  ∀ (l : LineNo) (f : LineFn), f.single = true → ((x.lines[l]).cfg.fn = f ↔ x.holderOf f = some l)

/-- The windows share no chute, every defined chute record is set for the chute its channel serves, and every defined record
holds values in the ranges that do not depend on the loop (R39, R40, R43 to R49). -/
def Zmr.Sound (z : Zmr) : Prop :=
  (z.baseA ≤ 1016 ∧ z.baseB ≤ 1016) ∧ (z.baseA + 8 ≤ z.baseB ∨ z.baseB + 8 ≤ z.baseA)
    ∧ (∀ (n : Chan) (r : ChuteRecord), z.chutes[n] = some r →
        r.chute = z.chuteOf n ∧ r.profile.inRange = true ∧ r.trace.inRange = true ∧ r.tau ≤ 65535
          ∧ r.wOpen ≤ r.wClose ∧ r.wClose + r.wLate ≤ 16777215)
    ∧ (∀ (k : Fin 16) (r : EyeRecord), z.eyes[k] = some r → 1 ≤ r.passes ∧ r.passes ≤ 255)
    ∧ (∀ (k : Fin 8) (r : DriveRecord), z.drives[k] = some r →
        r.base ≤ r.maximum ∧ (1 ≤ r.checkMs ∧ r.checkMs ≤ 255) ∧ (1 ≤ r.riseLimit ∧ r.riseLimit ≤ 1000))

/-- No two occupied slots carry one trial number, a LOADED trial holds no channel and no line, and the recorded holder of each
channel and line is the one trial that holds it (R54, R59). -/
def Ttb.Sound (b : Ttb) : Prop :=
  (∀ (j k : Slot) (t u : Trial), b.slots[j] = some t → b.slots[k] = some u → t.number = u.number → j = k)
    ∧ (∀ (k : Slot) (t : Trial), b.slots[k] = some t → t.state = .loaded → t.held.channel = none ∧ t.held.line = none)
    ∧ (∀ (c : Chan) (k : Slot), b.channelHolder[c] = some k ↔ ∃ t, b.slots[k] = some t ∧ t.held.channel = some c)
    ∧ (∀ (l : LineNo) (k : Slot), b.lineHolder[l] = some k ↔ ∃ t, b.slots[k] = some t ∧ t.held.line = some l)

/-- The serials of the ring run on without a gap up to the next serial (R171). -/
def Vlg.Serial (v : Vlg) : Prop :=
  ∀ i (h : i < v.records.length), (v.records[i]).serial = v.nextSerial - BitVec.ofNat 16 (v.records.length - i)

/-- How many trials are ARMED or ACTIVE. -/
def Ttb.begunCount (b : Ttb) : Nat :=
  allSlots.countP fun k =>
    match b.slots[k] with
    | some t => t.begun
    | none => false

/-- Every ARMED or ACTIVE trial holds one reservation, and the log never promises more than 128 places (R169, R175). -/
def State.Reserved (s : State) : Prop :=
  s.vlg.reserved = s.ttb.begunCount ∧ s.vlg.occupied + s.vlg.reserved ≤ 128

/-- While run control is HALTED the fire list is empty, and every channel is IDLE or in FAULT with no start pending, so that
every coil output is off (R71, R105). -/
def State.Halted (s : State) : Prop :=
  s.ttb.run.isHalted = true →
    s.fsc = [] ∧ ∀ c : Chan, ((s.channel c).state = .idle ∨ (s.channel c).state = .fault) ∧ (s.channel c).startPending = false

/-- LINK_REQUEST is asserted exactly while the link is in CHECKING, OWNED or RELEASING (R150, R154). -/
def State.Requesting (s : State) : Prop := s.lmx.asserted = s.dlk.state.engaged

/-- Whatever a block holds for a trial names a trial of the table, in the state and of the kind that the block works for: a fire
entry an ARMED CHUTE trial with the entry's channel, no two entries one slot (R77, R92); a watch an ACTIVE CHUTE trial (R130,
R148); an eye observation an ACTIVE EYE trial, and every such trial has one (R136, R141); the drive link's owner the one ACTIVE
DRIVE trial, for which the link is at work (R150, R154); a channel's owner an ACTIVE CHUTE or COIL trial that holds the channel, and
only while its profile waits or runs (R97, R110); a coil result such a trial whose profile has ended (R110, R142). -/
structure State.Tied (s : State) : Prop where
  entry : ∀ e ∈ s.fsc, ∃ t, s.trial e.slot = some t ∧ t.state = .armed ∧ t.target.kind = .chute ∧ t.number = e.number
    ∧ t.held.channel = some e.channel
  apart : s.fsc.Pairwise fun a b => a.slot ≠ b.slot
  watch : ∀ k : Slot, s.obu.watches[k] ≠ none → ∃ t, s.trial k = some t ∧ t.state = .active ∧ t.target.kind = .chute
  eye : ∀ k : Slot, s.obu.eyes[k] ≠ none ↔ ∃ t, s.trial k = some t ∧ t.state = .active ∧ t.target.kind = .eye
  link : ∀ o, s.dlk.owner = some o → ∃ t, s.trial o.slot = some t ∧ t.state = .active ∧ t.target.kind = .drive ∧ t.number = o.number
  drive : ∀ k t, s.trial k = some t → t.state = .active → t.target.kind = .drive →
    s.dlk.owner = some { slot := k, number := t.number } ∧ s.dlk.state.engaged = true
  coil : ∀ c o, (s.channel c).owner = some o → ∃ t, s.trial o.slot = some t ∧ t.state = .active
    ∧ (t.target.kind = .chute ∨ t.target.kind = .coil) ∧ t.number = o.number ∧ t.held.channel = some c
  busy : ∀ c o, (s.channel c).owner = some o → (s.channel c).startPending = true ∨ (s.channel c).state.running = true
  done : ∀ k : Slot, s.obu.coils[k] ≠ none →
    (∃ t, s.trial k = some t ∧ t.state = .active ∧ (t.target.kind = .chute ∨ t.target.kind = .coil))
      ∧ ∀ c o, (s.channel c).owner = some o → o.slot ≠ k

/-- The request queue holds at most 4 frames, the busy list at most 8, and the frame in progress at most 245 bytes
(R178, R181). -/
def Hlk.Bounded (h : Hlk) : Prop := h.queue.length ≤ 4 ∧ h.busy.length ≤ 8 ∧ h.held.length ≤ 245

/-! ## Frames -/

/-- The line matrix without the request assertion, which follows the drive link (R24). -/
def Lmx.kept (x : Lmx) : Lmx := { x with asserted := false }

/-- Run control and the load order counter. -/
def Ttb.kept (b : Ttb) : Ttb :=
  { b with slots := Vector.replicate 48 none, channelHolder := Vector.replicate 16 none,
           lineHolder := Vector.replicate 48 none, linkHolder := none }

/-- The PWM schedule. -/
def Cdu.kept (c : Cdu) : Cdu := { c with channels := Vector.replicate 16 .reset }

/-- The scan of the present period and the pending reads. -/
def Tru.kept (u : Tru) : Tru :=
  { u with buffers := Vector.replicate 4 none, completionCounter := 0, grantCounter := 0,
           results := Vector.replicate 16 none }

/-- The host link without the notice flags and the pending notices. -/
def Hlk.kept (h : Hlk) : Hlk := { h with flags := .empty, notices := .empty }

/-- The state with all that a follow-on effect of an event can reach set aside. A scan, a fire, a verdict, a coil done or a
leaving link changes trial slots and holders, the fire list, channels, traces, observations, the drive link and its request
line, the log, and the notice flags with their pending notices; it changes nothing that `kept` keeps: T, the tracker, the line
configurations and filters, the function holders, the zone map and records, run control and the load order counter, the PWM
schedule, the analog scan and the pending reads, the rest of the host link, and the queue of commands. -/
def State.kept (s : State) : State :=
  { s with lmx := s.lmx.kept, ttb := s.ttb.kept, fsc := [], cdu := s.cdu.kept, tru := s.tru.kept, obu := .reset, dlk := .reset,
           vlg := .reset, hlk := s.hlk.kept, choices := 0 }

/-! ## Resets -/

/-- What every block holds after a POWER or a SOFT reset, T, the two schedules and the line rate apart (R19, R38, R53, R76, R96,
R113, R128, R149, R167, R176, R192), with the serial lines and the drive link's outputs at rest. The accepted level of a line,
which its first sample after the reset replaces, is left out. -/
def State.ResetValues (t : State) : Prop :=
  (∃ close, t.ltr = { N := 64, P := 1024, HT := 16, H := 0, n := 0, V := 0, dir := .forward, R := 0, trust := .unsynced,
                      lastCorrection := 0, ref := none, nextClose := close })
    ∧ (∀ l : LineNo, (t.line l).cfg = { dir := .inward, output := .low, safe := .low, pullUp := false, active := .high, g := 3,
                                        fn := .unused }
        ∧ (t.line l).started = false ∧ (t.line l).c = 0 ∧ t.linePin l = none)
    ∧ (∀ f : LineFn, t.lmx.holderOf f = none) ∧ t.lmx.asserted = false ∧ t.lmx.stopHolds = false
    ∧ t.zmr.baseA = 0 ∧ t.zmr.baseB = 8 ∧ (∀ n : Chan, t.zmr.chutes[n] = none) ∧ (∀ k : Fin 16, t.zmr.eyes[k] = none)
    ∧ (∀ k : Fin 8, t.zmr.drives[k] = none)
    ∧ (∀ k : Slot, t.trial k = none) ∧ t.ttb.loadCounter = 0 ∧ t.ttb.run = .running
    ∧ (∀ c : Chan, t.ttb.channelHolder[c] = none) ∧ (∀ l : LineNo, t.ttb.lineHolder[l] = none) ∧ t.ttb.linkHolder = none
    ∧ t.fsc = []
    ∧ (∀ c : Chan, t.channel c = { state := .idle, profile := none, owner := none, startPending := false,
                                   returnRequested := false, remaining := 0, p := none, tb := none, guard := 256,
                                   fault := none })
    ∧ t.tru.scanList = [] ∧ t.tru.pendingReads = [] ∧ (∀ b : Buf, t.tru.buffers[b] = none) ∧ t.tru.completionCounter = 0
    ∧ t.tru.grantCounter = 0 ∧ (∀ c : Chan, t.tru.results[c] = none)
    ∧ (∀ l : LineNo, t.obu.observers[l] = none)
    ∧ (∀ k : Slot, t.obu.watches[k] = none ∧ t.obu.eyes[k] = none ∧ t.obu.coils[k] = none ∧ t.obu.drives[k] = none)
    ∧ t.dlk.state = .idle ∧ t.dlk.owner = none ∧ t.dlk.cur = none ∧ t.dlk.next = none ∧ t.dlk.plan = []
    ∧ t.dlk.deadline = none ∧ t.dlk.busySeen = false ∧ t.dlk.abort = none ∧ t.dlk.measurement = none ∧ t.dlk.badQuery = 0
    ∧ t.dlk.lastStatus = none ∧ t.dlk.faultSeen = false ∧ t.dlk.refused = false ∧ t.dlk.linkError = false
    ∧ t.dlk.setpointClamped = false ∧ t.dlk.releaseFailed = false
    ∧ t.vlg = { records := [], reserved := 0, nextSerial := 0 }
    ∧ t.hlk.held = [] ∧ t.hlk.queue = [] ∧ t.hlk.busy = [] ∧ t.hlk.handler = .idle ∧ t.hlk.reply = none ∧ t.hlk.tx = none
    ∧ t.hlk.flags = .empty ∧ t.hlk.overrun = false ∧ t.hlk.subs = .empty ∧ t.hlk.notices = .empty
    ∧ t.hlk.resetPhase = .off
    ∧ (∀ (k : Fin 8) (at_ : Time), t.selectPin k at_ = .high)
    ∧ (∀ (at_ : Time) (half : Bool) (ns : Nat), t.dclkPin at_ half = .low ∧ t.doutPin at_ = .low ∧ t.htxdPin at_ ns = .high)

/-! ## Halts -/

/-- What a link in RELEASING is told of a STOP (R164): with RELEASE and every STOP still to start, a base SETPOINT that has not
started goes and STOP stands before RELEASE; otherwise the plan stands. -/
def Dlk.ToldStop (d d' : Dlk) : Prop :=
  (.release ∈ d.plan → d.stopStarted = false →
      d' = { d with plan := [.stop, .release], next := d.next.map fun _ => .stop })
    ∧ (.release ∉ d.plan ∨ d.stopStarted = true → d' = d)

/-- A link that leaves OWNED at T = `t` with a release plan of `first` and then RELEASE (R153, R160): the current exchange runs on
with `first` waiting behind it, or `first` starts at once on the latched record. -/
def Dlk.ReleasesWith (d d' : Dlk) (t : Time) (first : DriveCmd) : Prop :=
  d'.state = .releasing ∧ d'.owner = d.owner ∧ d'.latch = d.latch ∧ d'.measurement = d.measurement
    ∧ (∀ x, d.cur = some x → d'.cur = some x ∧ d'.next = some first ∧ d'.plan = [first, .release])
    ∧ (d.cur = none → d'.next = none ∧ d'.plan = [.release]
        ∧ ∀ y, d.latch = some y →
          d'.cur = some { cmd := first, value := if first = .base then y.record.base else 0, select := y.record.select, start := t })

/-- What the entry into HALTED does to the drive link that works for the ACTIVE DRIVE trial `t` of slot `k` (R72, R164). The end of a
trial that an earlier halt ABORTED and that still releases after a Resume takes the new cause; only CANCELLED is kept (R72, R73). -/
def State.LinkHaltsInto (s u : State) (cause : HaltCause) (k : Slot) (t : Trial) : Prop :=
  (s.dlk.state = .checking → u.dlk.state = .idle ∧ u.dlk.cur = none ∧ u.lmx.asserted = false)
    ∧ (s.dlk.state = .owned → s.dlk.ReleasesWith u.dlk s.T (match cause with | .stop => .stop | .halt => .base))
    ∧ (s.dlk.state = .releasing → (cause = .halt → u.dlk = s.dlk) ∧ (cause = .stop → s.dlk.ToldStop u.dlk))
    ∧ (s.dlk.state = .owned ∨ s.dlk.state = .releasing →
        u.trial k = some { t with ending := if t.ending = .cancelled then .cancelled else .aborted cause })

/-- The numbers of the trials in the slots that `p` picks, in load order. -/
def State.numbersOf (s : State) (p : Slot → Trial → Bool) : List Nat :=
  s.ttb.oldestFirst.filterMap fun k => (s.trial k).bind fun t => if p k t then some t.number else none

/-- A trial whose verdict the entry into HALTED writes at once: an ARMED one, an ACTIVE CHUTE, COIL or EYE one, and a DRIVE one whose
link is still CHECKING (R72). -/
def State.endsAtHalt (s : State) (t : Trial) : Bool :=
  match t.state with
  | .loaded => false
  | .armed => true
  | .active => decide (t.target.kind ≠ .drive) || decide (s.dlk.state = .checking)

/-- What the entry into HALTED with a cause leaves of a state `s` (R33, R70 to R72): run control HALTED, the HALT flag set, the
general outputs at their safe levels, no fire entry, every coil output off, no trial ARMED, every LOADED trial held for
HALTED, and nothing else changed but what `kept` sets aside. Where the blocks' records and the table are tied, the trials that end
at once have their verdicts in load order, ABORTED with the cause unless CANCELLED was set before (R72, R105, R145), and the drive link
is told (R164). -/
def State.HaltsInto (s u : State) (cause : HaltCause) : Prop :=
  u.kept = ((s.setTtb { s.ttb with run := .halted cause }).setLmx s.lmx.applySafe).kept
    ∧ (∀ l : LineNo, u.line l =
        if ((s.line l).cfg.fn = .unused ∨ (s.line l).cfg.fn = .general) ∧ (s.line l).cfg.dir = .outward then
          { s.line l with cfg := { (s.line l).cfg with output := (s.line l).cfg.safe } }
        else s.line l)
    ∧ u.hlk.flags.halt = true ∧ u.fsc = []
    ∧ (∀ c : Chan, (u.channel c).pullDuty = 0 ∧ (u.channel c).retDuty = 0 ∧ (u.channel c).startPending = false)
    ∧ (∀ (k : Slot) (t : Trial), u.trial k = some t → t.state ≠ .armed ∧ (t.state = .loaded → t.hold = some .halted))
    ∧ (s.Tied → s.ttb.Sound →
        (∃ new, u.vlg.records = s.vlg.records ++ new ∧ new.map Verdict.number = s.numbersOf (fun _ t => s.endsAtHalt t)
          ∧ ∀ r ∈ new, ∃ k t, s.trial k = some t ∧ t.number = r.number ∧ r.kind = t.target.kind ∧ u.trial k = none
            ∧ (t.ending ≠ .cancelled → r.outcome = .aborted ∧ r.reason = some cause.reason)
            ∧ (t.ending = .cancelled → r.outcome = .cancelled ∧ r.reason = none))
        ∧ ∀ k t, s.trial k = some t → t.state = .active → t.target.kind = .drive → s.LinkHaltsInto u cause k t)

/-! ## Answers of the drive -/

/-- A link whose judged answer leaves it at work takes the next exchange at T = `t` (R153): the command that waits in the slot, or
else, while RELEASING, the first that the release plan still holds; with neither, no exchange is current. -/
def Dlk.GoesOn (d d' : Dlk) (t : Time) : Prop :=
  (d.next = none → d.state ≠ .releasing ∨ d.plan = [] → d' = { d with cur := none })
    ∧ ∀ (c : DriveCmd) (y : DriveLatch), d.latch = some y →
      d.next = some c ∨ (d.next = none ∧ d.state = .releasing ∧ d.plan.head? = some c) →
      d' = { d with
        cur := some { cmd := c, value := (match c with
                        | .step => d.setpointSent
                        | .base => y.record.base
                        | .query => 0
                        | .stop => 0
                        | .release => 0), select := y.record.select, start := t },
        next := none, plan := d.plan.erase c, stopStarted := d.stopStarted || decide (c = .stop), clockStop := none }

/-- A link that enters RELEASING at T = `t` with the release plan RELEASE alone, which starts at once; a waiting QUERY is dropped
(R153, R156, R159). -/
def Dlk.GivesUp (d d' : Dlk) (t : Time) : Prop :=
  ∀ y : DriveLatch, d.latch = some y →
    d' = { d with state := .releasing, next := none, plan := [], clockStop := none,
                  cur := some { cmd := .release, value := 0, select := y.record.select, start := t } }

/-! ## Arming -/

/-- The conditions of R61 that keep the LOADED trial `t` from arming, each with its hold reason; `earlier` are the slots whose trials
were loaded before it and are still LOADED at this point of the scan. A record that is not defined counts as SETUP: R43 lets no
LOADED trial name one (log entry 31). -/
def State.Bars (s : State) (earlier : List Slot) (t : Trial) : HoldReason → Prop
  | .halted => s.ttb.run ≠ .running
  | .setup => s.needs t = none
      ∨ (∃ n l, s.needs t = some n ∧ n.line = some l ∧ (s.line l).cfg.fn ≠ .eye)
      ∨ (∃ c n r, t.target = .coil c ∧ s.zmr.chuteRecord c = some (n, r) ∧ r.traceOn = false)
      ∨ (t.target.kind = .drive ∧ (s.lmx.requestHolder = none ∨ s.lmx.busyHolder = none))
  | .channelFault => ∃ n c, s.needs t = some n ∧ n.channel = some c ∧ (s.channel c).state = .fault
  | .linkFault => t.target.kind = .drive ∧ s.dlk.state = .fault
  | .noPosition =>
      ((t.target.kind = .chute ∨ t.target.kind = .eye) ∧ s.ltr.trust ≠ .synced)
        ∨ (∃ c tray n r, t.target = .chute c tray ∧ s.zmr.chuteRecord c = some (n, r)
            ∧ (s.ltr.N * s.ltr.P ≤ r.S ∨ ∃ k, tray = some k ∧ s.ltr.N ≤ k))
        ∨ (∃ m x, t.target = .eye m ∧ s.zmr.eyes[m] = some x
            ∧ ¬(x.X < s.ltr.N * s.ltr.P ∧ x.tol ≤ s.ltr.P / 2 ∧ ∀ e, x.expected = some e → e ≤ s.ltr.P ∧ x.lenTol ≤ s.ltr.P))
  | .resource => ∃ n, s.needs t = some n
      ∧ ((∃ c, n.channel = some c ∧ s.ttb.channelHolder[c] ≠ none) ∨ (∃ l, n.line = some l ∧ s.ttb.lineHolder[l] ≠ none)
        ∨ (n.link = true ∧ s.dlk.state ≠ .idle))
  | .order => ∃ j ∈ earlier, ∃ t' n n', s.trial j = some t' ∧ s.needs t = some n ∧ s.needs t' = some n'
      ∧ ((n.channel ≠ none ∧ n'.channel = n.channel) ∨ (n.line ≠ none ∧ n'.line = n.line) ∨ (n.link = true ∧ n'.link = true))
  | .logFull => 128 ≤ s.vlg.records.length + s.vlg.reserved
  | .traceBusy => ∃ n, s.needs t = some n ∧ n.trace = true ∧ ∀ b : Buf, ∃ tr, s.tru.buffers[b] = some tr ∧ tr.state = .filling

/-- The hold reason that R61 gives: the first condition of its list that holds. -/
def State.HeldFor (s : State) (earlier : List Slot) (t : Trial) (r : HoldReason) : Prop :=
  s.Bars earlier t r ∧ ∀ r' : HoldReason, r'.code < r.code → ¬s.Bars earlier t r'

/-- What a scan's turns at the slots of a list lead to, one after another, each with the state as it stands at that turn: the LOADED
trial takes its hold reason, and is earlier-loaded for those after it, or arms when no condition holds (R60, R61). -/
def ScansInto : List Slot → List Slot → State → State → Prop
  | _, [], s, u => u = s
  | earlier, k :: rest, s, u => ∃ t : Trial, s.trial k = some t ∧ t.state = .loaded
      ∧ ((∃ r, s.HeldFor earlier t r ∧ ScansInto (earlier ++ [k]) rest (s.setTrial k (some { t with hold := some r })) u)
        ∨ (∃ n, s.needs t = some n ∧ (∀ r, ¬s.Bars earlier t r) ∧ ScansInto earlier rest (s.arm k t n) u))

/-! ## Losses and reverse windows -/

/-- The trials that a loss or a reverse window ends have their verdicts, each group in load order and either group first, and their
slots are empty: those of the fire entries and those of the eye observations, ABORTED with the reason unless an end was set before
(R90, R91, R141, R145). -/
def State.AbortsPositions (s u : State) (reason : Reason) : Prop :=
  let fired := s.numbersOf fun k _ => s.fsc.any fun e => decide (e.slot = k)
  let seen := s.numbersOf fun k _ => (s.obu.eyes[k]).isSome
  ∃ new, u.vlg.records = s.vlg.records ++ new
    ∧ (new.map Verdict.number = fired ++ seen ∨ new.map Verdict.number = seen ++ fired)
    ∧ (∀ r ∈ new, ∃ k t, s.trial k = some t ∧ t.number = r.number
        ∧ (t.ending = .open_ → r.outcome = .aborted ∧ r.reason = some reason))
    ∧ ∀ k : Slot, s.obu.eyes[k] ≠ none ∨ (∃ e ∈ s.fsc, e.slot = k) → u.trial k = none

/-! ## Fires -/

/-- The watch that a fire at T = `t` opens for a record whose eye line is active or not (R130, R133): without a line it has ended
UNOBSERVED; on an active line it is BLOCKED, on an inactive one OPEN; with no time to run it has expired at once. -/
def Watch.OpenedFor (w : Watch) (r : ChuteRecord) (t : Time) (active : LineNo → Prop) : Prop :=
  w.line = r.eyeLine ∧ w.wOpen = r.wOpen ∧ w.wClose = r.wClose ∧ w.wLate = r.wLate
    ∧ w.expiry = t + BitVec.ofNat 32 (r.wClose + r.wLate) ∧ w.arrival = none ∧ w.dwell = none ∧ w.extra = 0
    ∧ w.stillBlocked = false
    ∧ (r.eyeLine = none → w.state = .ended ∧ w.item = some .unobserved)
    ∧ ∀ l, r.eyeLine = some l →
      (active l → w.item = some .blocked) ∧ (¬active l → 0 < r.wClose + r.wLate → w.item = none)
        ∧ (¬active l → r.wClose + r.wLate = 0 → w.item = some .missing)
        ∧ (r.wClose + r.wLate = 0 → w.state = .ended)
        ∧ (0 < r.wClose + r.wLate → (active l → w.state = .blocked) ∧ (¬active l → w.state = .opened))

/-- What an event at the state `s`, the tracker already moved, does to the fire list by `step`: each entry stays as `step` leaves it,
or leaves the list and fires. The fired ARMED trial becomes ACTIVE, its profile is handed to its channel, and its watch opens with
the fire, observing its line (R84 to R88, R93, R94, R100, R130). Every other trial stays, and no verdict is written. -/
def State.FiresInto (s u : State) (step : FireEntry → EntryStep) : Prop :=
  u.fsc = s.fsc.filterMap (fun e => (step e).kept) ∧ u.vlg = s.vlg
    ∧ (∀ k : Slot, (∀ e ∈ s.fsc, e.slot = k → ∃ e', step e = .keep e') → u.trial k = s.trial k)
    ∧ ∀ e ∈ s.fsc, ∀ late lateFire lead clamped, step e = .fire late lateFire lead clamped →
      ∀ t, s.trial e.slot = some t → t.state = .armed →
        u.trial e.slot = some { t with state := .active }
          ∧ ∀ (n : Chan) (r : ChuteRecord), s.zmr.chuteRecord t.target.index = some (n, r) →
            (u.channel e.channel).profile = some r.profile
              ∧ (u.channel e.channel).owner = some { slot := e.slot, number := e.number }
              ∧ (u.channel e.channel).startPending = true ∧ (u.channel e.channel).state = (s.channel e.channel).state
              ∧ (∃ w, u.obu.watches[e.slot] = some w ∧ w.OpenedFor r s.T (fun l => (s.line l).accepted = (s.line l).cfg.active)
                ∧ w.fire = { part := { tf := s.T, tray := e.tray, position := s.ltr.H, lead := lead, late := late },
                             leadClamped := clamped, lateFire := lateFire })
              ∧ ∀ l, r.eyeLine = some l → 0 < r.wClose + r.wLate →
                (∀ e' ∈ s.fsc, e'.slot ≠ e.slot → ∀ t' n' r', s.trial e'.slot = some t' →
                    s.zmr.chuteRecord t'.target.index = some (n', r') → r'.eyeLine ≠ some l) →
                u.obu.observers[l] = some { slot := e.slot, number := e.number }

/-! ## Eye observations -/

/-- The observation `e'` is `e` after a movement of the loop by `delta` counts: the progress moves with it, every pass whose close, half
a pitch after the pass, the progress has then come to is closed, and a pass once closed stays closed (R137). -/
def EyeObservation.MovesInto (e e' : EyeObservation) (pitch : Nat) (delta : Int) : Prop :=
  e' = { e with u := e.u + delta,
                closed := max e.closed ((List.range e.passes).countP fun j =>
                  decide (e.uE0 + (j * pitch + pitch / 2 : Nat) ≤ e.u + delta)) }

/-- A movement of the loop by `delta` counts leaves every ACTIVE EYE trial that it does not bring to u_end at work with its observation
moved; a backward movement ends none (R137). -/
def State.EyesMoveInto (s u : State) (delta : Int) : Prop :=
  ∀ (k : Slot) (t : Trial) (e : EyeObservation), s.trial k = some t → t.state = .active → s.obu.eyes[k] = some e →
    delta ≤ 0 ∨ e.u + delta < e.uEnd →
    u.trial k = some t ∧ ∃ e', u.obu.eyes[k] = some e' ∧ e.MovesInto e' s.ltr.P delta

/-- A forward movement by `delta` counts that brings the progress of one ACTIVE EYE trial to u_end ends it: its slot is EMPTY and its
verdict has the first sensor outcome that applies, with the passes that had no hit as its misses (R137, R140). -/
def State.EyeEndsInto (s u : State) (delta : Nat) : Prop :=
  ∀ (k : Slot) (t : Trial) (e : EyeObservation), s.trial k = some t → t.state = .active → t.target.kind = .eye →
    t.ending = .open_ → s.obu.eyes[k] = some e → e.uEnd ≤ e.u + delta → 1 ≤ e.passes →
    e.uEnd = e.uE0 + ((e.passes - 1) * s.ltr.P + s.ltr.P / 2 : Nat) → e.closed ≤ e.passes →
    (∀ (j : Slot) (x : EyeObservation), j ≠ k → s.obu.eyes[j] = some x → x.u + delta < x.uEnd) →
    let misses := (List.range e.passes).countP fun i => decide (i ∉ e.hitPasses)
    ∃ r : Verdict, u.vlg.records = s.vlg.records ++ [r] ∧ r.number = t.number ∧ r.serial = s.vlg.nextSerial ∧ r.kind = .eye
      ∧ r.reason = none ∧ u.trial k = none
      ∧ r.outcome = (if 0 < misses then .sensorMiss else if 0 < e.strays then .sensorStray
          else if 0 < e.extras then .sensorDouble else if 0 < e.lenFailures then .sensorLength else .pass)
      ∧ ∃ x, r.sensor = some x ∧ x.misses = misses ∧ x.hits = e.hits ∧ x.extras = e.extras ∧ x.strays = e.strays
        ∧ x.lenFailures = e.lenFailures

/-! ## Coil done -/

/-- The coil results of the trial `t` whose profile ends on channel `c` (R121, R124, R127): of its trace, which this coil done completes
and reduces; of a trace completed before, those kept with the channel; and without a trace no dip, peak 0 and no hold mean. -/
def State.doneFigures (s : State) (c : Chan) (t : Trial) : CoilFigures :=
  let none_ : CoilFigures := { dip := none, peak := 0, holdMean := none }
  match t.held.buffer, (s.tru.fillingFor t.number).bind fun b => s.tru.buffers[b] with
  | none, _ => none_
  | some _, some tr => if tr.tb = none then (s.tru.results[c]).getD none_ else tr.reduce
  | some _, none => (s.tru.results[c]).getD none_

/-- What the coil done COMPLETE of channel `c` leaves of the trial `t` of slot `k`, whose chute record is `x`. Its FILLING trace is
complete with cause ENDED, its results are handed on, and the channel has no owner (R110, R121, R124). A COIL trial, and a CHUTE trial
whose watch has ended, has its verdict, with the coil outcome of R127 in its COIL part, and its slot is EMPTY (R135, R142, R145 to
R147); a CHUTE trial whose watch runs stays, with the coil results kept (R135). -/
def State.CoilDoneInto (s u : State) (c : Chan) (k : Slot) (t : Trial) (x : ChuteRecord) : Prop :=
  let fig := s.doneFigures c t
  let part : CoilPart := { outcome := coilOutcome .complete t.held.buffer.isSome x.trace fig, buffer := t.held.buffer,
                           dip := fig.dip, peak := fig.peak, holdMean := fig.holdMean }
  let watch := s.obu.watches[k]
  (∀ (b : Buf) (tr : Trace), s.tru.fillingFor t.number = some b → s.tru.buffers[b] = some tr →
      ∃ order, u.tru.buffers[b] = some { tr with state := .completeUnread, completion := some (.ended, order) })
    ∧ u.tru.results[c] = none ∧ (u.channel c).owner = none
    ∧ (t.target.kind = .coil ∨ (t.target.kind = .chute ∧ watch.map Watch.state = some .ended) →
        t.ending = .open_ ∨ t.ending = .cancelled →
        u.trial k = none ∧ ∃ r ∈ u.vlg.records.drop s.vlg.records.length,
          r.number = t.number ∧ r.kind = t.target.kind ∧ r.target = t.target.index ∧ r.tArm = t.tArm.getD 0 ∧ r.reason = none
            ∧ r.outcome = (if t.ending = .cancelled then .cancelled
                else if t.target.kind = .coil then part.outcome
                else (watch.bind Watch.item).getD .missing)
            ∧ r.coil = some part ∧ r.fire = watch.map (fun w => w.fire.part)
            ∧ r.item = watch.map (fun w => { arrival := w.arrival, dwell := w.dwell, extra := w.extra : ItemPart })
            ∧ r.flags.leadClamped = watch.any (fun w => w.fire.leadClamped)
            ∧ r.flags.lateFire = watch.any (fun w => w.fire.lateFire) ∧ r.flags.stillBlocked = watch.any Watch.stillBlocked)
    ∧ ∀ w, t.target.kind = .chute → watch = some w → w.state ≠ .ended →
      u.trial k = some t ∧ u.obu.watches[k] = some w
        ∧ ∃ rep, u.obu.coils[k] = some rep ∧ rep.channel = c ∧ rep.ending = .complete ∧ rep.tb = (s.channel c).tb
          ∧ rep.periodsRun = ((s.channel c).p).map (· + 1) ∧ rep.phase = none ∧ rep.part = some part

/-! ## Coil profiles over many boundaries -/

/-- A channel after `n` boundaries, 50 µs apart, the first at T = `t` (R98). -/
def Channel.afterBoundaries (t : Time) : Nat → Channel → Channel
  | 0, c => c
  | n + 1, c => ((Channel.afterBoundaries t n c).boundary (t + BitVec.ofNat 32 (50 * n))).1

/-- The length of a profile that runs uninterrupted, in periods (R102). -/
def Profile.total (p : Profile) : Nat :=
  p.pullPeriods + p.holdPeriods + p.dead + (if p.returnPeriods = 0 then 0 else p.returnPeriods + p.dead) + p.recover

/-- The phase to which the period of index `i` of a profile belongs (R101). -/
def Profile.phaseAt (p : Profile) (i : Nat) : ChanState :=
  let a := p.pullPeriods + p.holdPeriods
  let b := a + p.dead
  if i < p.pullPeriods then .pullIn
  else if i < a then .hold
  else if i < b then .gap1
  else if p.returnPeriods = 0 then .recover
  else if i < b + p.returnPeriods then .ret
  else if i < b + p.returnPeriods + p.dead then .gap2
  else .recover

/-! ## Fire entries -/

/-- An entry whose fire point stands its lead before its pass point, within the limits of its items (R77, R79, R81, R83). -/
def FireEntry.Placed (e : FireEntry) (l : Ltr) : Prop :=
  e.Q < l.L ∧ e.lead ≤ 4 * l.P ∧ e.F = (e.Q + l.L - e.lead) % l.L ∧ e.skip ≤ 1

/-- An entry that is placed and at most two laps from its pass, as it is at arming (R77, R81, R82). -/
def FireEntry.Aimed (e : FireEntry) (l : Ltr) : Prop :=
  e.Q < l.L ∧ e.lead ≤ 4 * l.P ∧ e.F = (e.Q + l.L - e.lead) % l.L ∧ e.skip ≤ 1 ∧ e.remaining l ≤ 2 * l.L

/-- The tracker and the table are sound, the blocks' records and the table are tied, and every fire entry is placed on the loop (R77,
R96). -/
def State.Placed (s : State) : Prop := s.ltr.Sound ∧ s.ttb.Sound ∧ s.Tied ∧ ∀ e ∈ s.fsc, e.Placed s.ltr

/-! ## Edges -/

/-- The next sample of `l` that differs from its accepted level is an accepted edge, the line has the function `fn`, and the
edge goes to the active level exactly when `goingActive` says so (R21, R27). -/
def State.EdgeReady (s : State) (l : LineNo) (fn : LineFn) (goingActive : Bool) : Prop :=
  (s.line l).started = true ∧ (s.line l).cfg.g ≤ (s.line l).c ∧ (s.line l).cfg.fn = fn
    ∧ ((s.line l).accepted.other = (s.line l).cfg.active ↔ goingActive = true)

/-- The state in which the consumer of an edge is told of it: `dt` has passed and the line's other level is accepted (R27). -/
def State.edged (s : State) (dt : Time) (l : LineNo) : State :=
  (s.after dt).setLine l { s.line l with accepted := (s.line l).accepted.other, c := 0 }

/-- No fire entry stands and no EYE trial is observed, so that a movement of H meets nothing. -/
def State.Unaimed (s : State) : Prop := s.fsc = [] ∧ ∀ k : Slot, s.obu.eyes[k] = none

/-! ## The hunter -/

/-- Bytes from a start byte on that are less than the frame their length byte gives (R178, R179). -/
def PartFrame (bs : List Byte) : Prop :=
  bs = [0xC3#8] ∨ ∃ len rest, bs = 0xC3#8 :: len :: rest ∧ len.toNat ≤ 240 ∧ rest.length < len.toNat + 4

/-- Bytes that begin with a whole frame whose check is right (R178, R180). -/
def WholeFrame (bs : List Byte) : Prop := ∃ (g : Frame) (more : List Byte), g.payload.length ≤ 240 ∧ bs = g.bytes ++ more

/-- What the re-examination of bytes with their arrival times comes to (R180): the frames it completes, in order, and the bytes then
held. Outside a frame any byte but a start byte is dropped. From a start byte on, a whole frame is complete; a part of one is held,
or with its gap run out, as `late` says, discarded; and all else is discarded. After a discard the bytes after the start byte are
examined in their turn. -/
inductive Reexamined (late : Bool) : List (Byte × Time) → List Frame → List (Byte × Time) → Prop
  | done : Reexamined late [] [] []
  | dropped (x : Byte × Time) (rest : List (Byte × Time)) (fs : List Frame) (held : List (Byte × Time)) :
      x.1 ≠ 0xC3#8 → Reexamined late rest fs held → Reexamined late (x :: rest) fs held
  | complete (g : Frame) (xs rest : List (Byte × Time)) (fs : List Frame) (held : List (Byte × Time)) :
      g.payload.length ≤ 240 → xs.map Prod.fst = g.bytes → Reexamined late rest fs held → Reexamined late (xs ++ rest) (g :: fs) held
  | held (xs : List (Byte × Time)) : late = false → PartFrame (xs.map Prod.fst) → Reexamined late xs [] xs
  | discarded (x : Byte × Time) (rest : List (Byte × Time)) (fs : List Frame) (held : List (Byte × Time)) :
      x.1 = 0xC3#8 → ¬WholeFrame ((x :: rest).map Prod.fst) → late = true ∨ ¬PartFrame ((x :: rest).map Prod.fst) →
      Reexamined late rest fs held → Reexamined late (x :: rest) fs held

/-! ## Verdict records on the line -/

/-- The outcomes in the order of their codes (R193). -/
def outcomeOrder : List VerdictOutcome :=
  [.pass, .early, .late, .missing, .blocked, .unobserved, .coilFault, .coilNoMotion, .coilSlow, .coilFast, .holdLow, .holdHigh,
   .notTraced, .sensorMiss, .sensorStray, .sensorDouble, .sensorLength, .driveSlow, .driveOvershoot, .driveUnsettled,
   .driveRefused, .driveFault, .driveLinkError, .aborted, .cancelled]

/-- The reasons in the order of their codes, none first (R193). -/
def reasonOrder : List (Option Reason) :=
  [none, some .stop, some .halt, some .positionLost, some .reverse, some .conflict, some .takenBack]

/-- An unsigned field of `w` bytes at an offset holds a value, where the value has room in it. -/
def Holds (bs : List Byte) (off w n : Nat) : Prop := n < 256 ^ w → field bs off w = n

/-- A signed field of `w` bytes at an offset holds a value in two's complement. -/
def HoldsSigned (bs : List Byte) (off w : Nat) (i : Int) : Prop := (field bs off w : Int) = i % (256 ^ w : Nat)

/-- The bytes of a verdict record as R193 lays them out: the common part of 16 bytes, then the parts that are present in the order
FIRE, ITEM, COIL, SENSOR, DRIVE, each of its fixed size, an absent field sent as zero. -/
def Verdict.LaidOut (r : Verdict) (b : List Byte) : Prop :=
  (b.length = r.size ∧ field b 0 1 = r.size ∧ field b 1 2 = r.serial.toNat ∧ Holds b 3 2 r.number
      ∧ ([Kind.chute, .coil, .eye, .drive])[field b 5 1]? = some r.kind ∧ outcomeOrder[field b 6 1]? = some r.outcome
      ∧ reasonOrder[field b 7 1]? = some r.reason
      ∧ field b 8 1 = boolCode r.flags.leadClamped + 2 * boolCode r.flags.lateFire + 4 * boolCode r.flags.stillBlocked
          + 8 * boolCode r.flags.setpointClamped + 16 * boolCode r.flags.releaseFailed
      ∧ Holds b 9 2 r.target ∧ field b 11 4 = r.tArm.toNat
      ∧ field b 15 1 = boolCode r.fire.isSome + 2 * boolCode r.item.isSome + 4 * boolCode r.coil.isSome
          + 8 * boolCode r.sensor.isSome + 16 * boolCode r.drive.isSome)
    ∧ ∃ bf bi bc bs bd : List Byte, b.drop 16 = bf ++ bi ++ bc ++ bs ++ bd
      ∧ (r.fire = none → bf = []) ∧ (r.item = none → bi = []) ∧ (r.coil = none → bc = []) ∧ (r.sensor = none → bs = [])
      ∧ (r.drive = none → bd = [])
      ∧ (∀ p, r.fire = some p → bf.length = 13 ∧ field bf 0 4 = p.tf.toNat ∧ Holds bf 4 2 p.tray ∧ Holds bf 6 3 p.position
          ∧ Holds bf 9 2 p.lead ∧ Holds bf 11 2 p.late)
      ∧ (∀ p, r.item = some p → bi.length = 8 ∧ field bi 0 1 = boolCode p.arrival.isSome + 2 * boolCode p.dwell.isSome
          ∧ Holds bi 1 3 (p.arrival.getD 0) ∧ Holds bi 4 3 (p.dwell.getD 0) ∧ Holds bi 7 1 p.extra)
      ∧ (∀ p, r.coil = some p → bc.length = 10 ∧ outcomeOrder[field bc 0 1]? = some p.outcome
          ∧ field bc 1 1 = (match p.buffer with | some x => x.val | none => 255)
          ∧ field bc 2 1 = boolCode p.dip.isSome + 2 * boolCode p.holdMean.isSome ∧ Holds bc 3 3 (p.dip.getD 0)
          ∧ Holds bc 6 2 p.peak ∧ Holds bc 8 2 (p.holdMean.getD 0))
      ∧ (∀ p, r.sensor = some p → bs.length = 19 ∧ Holds bs 0 1 p.hits ∧ Holds bs 1 1 p.misses ∧ Holds bs 2 1 p.extras
          ∧ Holds bs 3 1 p.strays ∧ field bs 4 1 = boolCode p.dMin.isSome + 2 * boolCode p.lenMin.isSome
          ∧ HoldsSigned bs 5 2 (p.dMin.getD 0) ∧ HoldsSigned bs 7 2 (p.dMax.getD 0) ∧ HoldsSigned bs 9 3 p.dSum
          ∧ HoldsSigned bs 12 3 (p.lenMin.getD 0) ∧ HoldsSigned bs 15 3 (p.lenMax.getD 0) ∧ Holds bs 18 1 p.lenFailures)
      ∧ ∀ p, r.drive = some p → bd.length = 15 ∧ Holds bd 0 1 p.index ∧ Holds bd 1 2 p.setpoint ∧ Holds bd 3 2 p.v0
          ∧ Holds bd 5 2 p.peak ∧ Holds bd 7 2 p.rise
          ∧ field bd 9 1 = boolCode p.settle.isSome + 2 * boolCode p.lastStatus.isSome ∧ Holds bd 10 2 (p.settle.getD 0)
          ∧ field bd 12 1 = (match p.lastStatus with | some x => x.1.toNat | none => 0)
          ∧ Holds bd 13 2 (match p.lastStatus with | some x => x.2 | none => 0)

/-! ## Code tables -/

/-- Named values are coded from `first` on in an order. -/
def Coded {α : Type} (code : α → Nat) (first : Nat) (order : List α) : Prop :=
  ∀ x, first ≤ code x ∧ order[code x - first]? = some x

/-! ## Requests -/

/-- The handler is free and the request `f` stands at the head of its queue, with `rest` behind it (R182, R191). -/
def State.Serves (s : State) (f : Frame) (rest : List Frame) : Prop :=
  s.hlk.handler = .idle ∧ s.hlk.reply = none ∧ s.hlk.resetPhase = .off ∧ s.hlk.queue = f :: rest

/-- The state in which a block is told of the request at the head of the queue: `dt` has passed and the frame has left it. -/
def State.serving (s : State) (dt : Time) (rest : List Frame) : State := (s.after dt).taken rest

/-- The state `u` that a block has left, with its reply to the request `f` placed and the transmitter's turn taken: the reply's
kind is the request's plus 0x80, and its tag the request's (R178, R182, R186). -/
def State.replied (u : State) (f : Frame) (payload : List Byte) : State :=
  (u.place { kind := f.kind + 0x80#8, tag := f.tag, payload := payload }).kick

/-- The answer to a refused request: the frame has left the queue, no block has changed, and a REFUSED frame with the request's
tag, kind and reason is placed (R182, R184). -/
def State.refusal (s : State) (dt : Time) (f : Frame) (rest : List Frame) (r : RefuseReason) : State :=
  ((s.serving dt rest).place { kind := 0xFE#8, tag := f.tag, payload := [f.kind, BitVec.ofNat 8 r.code] }).kick

/-- The requests as the table of R183 gives them: the time before the command, the kind, and the payload bytes. -/
def requestOf : Instr → Option (Time × Byte × Nat)
  | .identify dt => some (dt, 0x01#8, 0)
  | .status dt => some (dt, 0x02#8, 0)
  | .subscribe dt => some (dt, 0x03#8, 1)
  | .reset dt => some (dt, 0x04#8, 0)
  | .setLoop dt => some (dt, 0x05#8, 6)
  | .setZone dt => some (dt, 0x06#8, 4)
  | .setChute dt => some (dt, 0x07#8, 50)
  | .setEye dt => some (dt, 0x08#8, 12)
  | .setDrive dt => some (dt, 0x09#8, 13)
  | .setLine dt => some (dt, 0x0A#8, 8)
  | .readLines dt => some (dt, 0x0B#8, 0)
  | .readAnalog dt => some (dt, 0x0C#8, 5)
  | .loadTrial dt => some (dt, 0x0D#8, 13)
  | .cancelTrial dt => some (dt, 0x0E#8, 2)
  | .cancelAll dt => some (dt, 0x0F#8, 0)
  | .readTable dt => some (dt, 0x10#8, 0)
  | .readLog dt => some (dt, 0x11#8, 1)
  | .readTrace dt => some (dt, 0x12#8, 5)
  | .halt dt => some (dt, 0x13#8, 0)
  | .resume dt => some (dt, 0x14#8, 0)
  | .clearChannel dt => some (dt, 0x15#8, 1)
  | .linkRestart dt => some (dt, 0x16#8, 0)
  | _ => none

end Sys2Proof.Machine
end

