-- ==== Sys2Proof/Certificates/Slice0/Obligations.lean ====
section
/-! DEFINITION. The statements for the provers. `X.kept` is what no follow-on effect of an event reaches, `kick` the transmitter's
turn at the end of an event, `s.after dt` the state when the command is due, `s.serving dt rest` the state in which a block is told
of a request. -/

open Sys2Proof Sys2Proof.Machine

/-! ## The queue of commands and the resets -/

/-- A step takes the command at the front of the queue and runs it on the state with the queue's rest, whatever the command; on
an empty queue the block idles (the model's choice, log entry 7). -/
def Obligations.StepTakesTheFrontCommand : Prop :=
  (∀ (c : Instr) (s : State) (rest : List Instr), step { s with pending := c :: rest } = exec c { s with pending := rest })
    ∧ ∀ s : State, s.pending = [] → step s = .next s

/-- A POWER reset completes in every state; every block then holds its reset values, the link's indications among them clear, T
is 0, the first window close is at 4,096, a PWM period has just begun, and the line rate is that of the straps (R8, R19, R38, R53,
R76, R96, R98, R113, R128, R149, R167, R176, R177, R192). The serial lines and the drive link's outputs are at rest (R152, R177). The queue of commands stays: it is the
sender's (log entry 7). The latched values and the setpoint sent, for which R167 gives none, are left out. -/
def Obligations.PowerResetValues : Prop :=
  ∀ (b1 b0 : Level) (s : State), ∃ u : State, exec (.powerReset b1 b0) s = .next u ∧ u.ResetValues ∧ u.T = 0 ∧ u.ltr.nextClose = 4096
    ∧ u.cdu.periodStart = 0 ∧ u.tru.scanBegun = false ∧ u.pending = s.pending
    ∧ u.hlk.strap.val = 2 * b1.code + b0.code
    ∧ baud u.hlk.strap = (match b1, b0 with
        | .low, .low => 115200
        | .low, .high => 460800
        | .high, .low => 921600
        | .high, .high => 2000000)

/-- A SOFT reset completes once the Reset reply has been sent; every block then holds its reset values, while T, the PWM period and
the line rate go on, and the next window closes at the next multiple of 4,096 after T (R8, R19, R98, R191, R192). That a period in
which the scan has begun stays one is DEDUCED (log entry 34), and that the queue of commands stays is the model's choice (log
entry 7). -/
def Obligations.SoftResetValues : Prop :=
  ∀ (dt : Time) (s : State), s.hlk.resetPhase = .due →
    ∃ u : State, exec (.softReset dt) s = .next u ∧ u.ResetValues ∧ u.T = s.T + dt
      ∧ u.ltr.nextClose.toNat % 4096 = 0 ∧ 1 ≤ (u.ltr.nextClose - u.T).toNat ∧ (u.ltr.nextClose - u.T).toNat ≤ 4096
      ∧ u.cdu.periodStart = s.cdu.periodStart ∧ u.tru.scanBegun = s.tru.scanBegun ∧ u.hlk.strap = s.hlk.strap
      ∧ u.hlk.resetPhase = .off ∧ u.pending = s.pending

/-! ## The loop tracker -/

/-- A forward count adds 1 to H modulo L and to n, takes 1 from R above 0, and moves the reference one pair on, in every tracker
state; nothing else that `kept` keeps changes, and with no fire entry and no EYE observation nothing else changes at all (R4, R5,
R7). It adds 1 to the progress of every ACTIVE EYE trial and closes the passes that this comes to; the one that it brings to u_end ends
there: its slot is EMPTY and its verdict has the first sensor outcome that applies, with the passes that had no hit as its misses
(R137, R140). -/
def Obligations.ForwardCountMovesH : Prop :=
  ∀ (dt : Time) (s : State) (p q : Level × Level), s.ltr.ref = some p → decoderStep p q = .forward →
    ∃ u : State, exec (.forwardCount dt) s = .next u.kick
      ∧ u.ltr = { s.ltr with H := (s.ltr.H + 1) % (s.ltr.N * s.ltr.P), n := s.ltr.n + 1,
                             R := if s.ltr.R = 0 then 0 else s.ltr.R - 1, ref := some q }
      ∧ u.kept = ((s.after dt).setLtr u.ltr).kept
      ∧ (s.Unaimed → u = (s.after dt).setLtr u.ltr)
      ∧ s.EyesMoveInto u 1 ∧ s.EyeEndsInto u 1

/-- A backward count takes 1 from H modulo L and from n, adds 1 to R up to 65,535, and moves the reference one pair back. When it
brings R to P/2 while SYNCED, the tracker becomes LOST, the fire list is emptied, the TRACK flag set, and the trials of the fire
entries and of the EYE observations have their verdicts ABORTED with POSITION_LOST (R90, R141); otherwise it takes 1 from the progress
of every ACTIVE EYE trial, whose passes closed stay closed (R137), nothing else that `kept` keeps changes, and with no fire entry and
no EYE observation nothing else changes at all (R4, R5, R7, R14, R90). -/
def Obligations.BackwardCountMovesH : Prop :=
  ∀ (dt : Time) (s : State) (p q : Level × Level), s.ltr.ref = some p → decoderStep p q = .backward →
    let r := if s.ltr.R < 65535 then s.ltr.R + 1 else 65535
    let lost := s.ltr.trust = .synced ∧ r = s.ltr.P / 2
    ∃ u : State, exec (.backwardCount dt) s = .next u.kick
      ∧ u.ltr.H = (s.ltr.H + s.ltr.N * s.ltr.P - 1) % (s.ltr.N * s.ltr.P) ∧ u.ltr.n = s.ltr.n - 1 ∧ u.ltr.R = r
      ∧ u.ltr.ref = some q
      ∧ (lost → u.ltr.trust = .lost ∧ u.fsc = [] ∧ u.hlk.flags.track = true ∧ (s.Tied → s.AbortsPositions u .positionLost))
      ∧ (¬lost → u.ltr.trust = s.ltr.trust ∧ s.EyesMoveInto u (-1))
      ∧ u.ltr = { s.ltr with H := u.ltr.H, n := u.ltr.n, R := u.ltr.R, ref := u.ltr.ref, trust := u.ltr.trust }
      ∧ u.kept = ((s.after dt).setLtr u.ltr).kept
      ∧ (¬lost → s.Unaimed → u = (s.after dt).setLtr u.ltr)

/-- The decoder's table (R4), the first sample, and the illegal transition (R6): it moves the reference alone, and while SYNCED
it also loses the position, with the trials of the fire entries and the EYE observations ABORTED with POSITION_LOST (R14, R90,
R141). -/
def Obligations.DecoderSamples : Prop :=
  (∀ a b c d : Level, decoderStep (a, b) (c, d) =
      if c = a then (if d = b then .still else if a = b then .backward else .forward)
      else if d = b then (if a = b then .forward else .backward) else .illegal)
    ∧ (∀ (dt : Time) (s : State) (a b : Level), s.ltr.ref = none →
        exec (.firstDecoderSample dt a b) s = .next ((s.after dt).setLtr { s.ltr with ref := some (a, b) }).kick)
    ∧ (∀ (dt : Time) (s : State) (a b : Level), s.ltr.ref = some (a, b) → s.ltr.trust ≠ .synced →
        exec (.illegalTransition dt) s
          = .next ((s.after dt).setLtr { s.ltr with ref := some (a.other, b.other) }).kick)
    ∧ ∀ (dt : Time) (s : State) (a b : Level), s.ltr.ref = some (a, b) → s.ltr.trust = .synced →
        ∃ u : State, exec (.illegalTransition dt) s = .next u.kick
          ∧ u.ltr = { s.ltr with ref := some (a.other, b.other), trust := .lost }
          ∧ u.kept = ((s.after dt).setLtr u.ltr).kept ∧ u.fsc = [] ∧ u.hlk.flags.track = true
          ∧ (s.Tied → s.AbortsPositions u .positionLost)

/-- At its scheduled T a window closes: V and the direction follow from n, n starts again, and the next close is 4,096 µs on; the
tracker state is not changed. A REVERSE window ends the trials of the fire entries and the EYE observations ABORTED with REVERSE
(R91, R141). With no fire entry and no EYE observation, and the link not OWNED, nothing else changes (R8, R9). That a trial which a
scan within the event arms is not ended is the model's choice (log entry 36). -/
def Obligations.WindowCloseSetsV : Prop :=
  ∀ (dt : Time) (s : State), s.T + dt = s.ltr.nextClose →
    ∃ u : State, exec (.windowClose dt) s = .next u.kick
      ∧ u.ltr = { s.ltr with V := if 0 < s.ltr.n then min 65535 s.ltr.n.toNat else 0,
                             dir := if s.ltr.n < 0 then .reverse else .forward,
                             n := 0, nextClose := s.ltr.nextClose + 4096 }
      ∧ u.kept = ((s.after dt).setLtr u.ltr).kept
      ∧ (s.ltr.n < 0 → s.Tied → s.AbortsPositions u .reverse)
      ∧ (s.Unaimed → s.dlk.state ≠ .owned → u = (s.after dt).setLtr u.ltr)

/-- R18: the next pass at guard G of X by its four steps, and the bounds on its distance ahead. -/
def Obligations.NextPassWithinOnePitch : Prop :=
  ∀ (l : Ltr) (x g : Nat), 16 ≤ l.N → 64 ≤ l.P → l.H < l.N * l.P → x < l.N * l.P → g ≤ 15 * l.P →
    let k := (l.nextPass x g).1
    let q := (l.nextPass x g).2
    let base := ((x : Int) - l.H) % (l.N * l.P : Nat)
    let r := ((g : Int) - base) % (l.N * l.P : Nat)
    (k : Int) = ((r + l.P - 1) / l.P) % (l.N : Nat) ∧ k < l.N ∧ q = (x + k * l.P) % (l.N * l.P)
      ∧ (g : Int) ≤ ((q : Int) - l.H) % (l.N * l.P : Nat) ∧ ((q : Int) - l.H) % (l.N * l.P : Nat) < g + l.P

/-- A home edge going active after a FORWARD window: a sync from UNSYNCED or LOST, a correction within HT, a loss beyond it, which
ends the trials of the fire entries and the EYE observations ABORTED with POSITION_LOST; after a REVERSE window it is ignored (R10
to R14, R90, R141). A correction of d adds −d to the progress of every ACTIVE EYE trial, and one forward brings it to its end at
u_end (R137, R140). The offset d is the signed fold of H (for an odd L by the model's reading, log entry 16). -/
def Obligations.HomeEdgeSyncsCorrectsOrLoses : Prop :=
  ∀ (dt : Time) (s : State) (l : LineNo), s.EdgeReady l .home true →
    let d : Int := if 2 * s.ltr.H < s.ltr.N * s.ltr.P then s.ltr.H else (s.ltr.H : Int) - (s.ltr.N * s.ltr.P : Nat)
    let e := s.edged dt l
    (s.ltr.dir = .reverse → exec (.acceptedEdge dt l) s = .next e.kick)
      ∧ (s.ltr.dir = .forward → s.ltr.trust ≠ .synced →
          ∃ u : State, exec (.acceptedEdge dt l) s = .next u.kick
            ∧ u.ltr = { s.ltr with H := 0, R := 0, lastCorrection := 0, trust := .synced }
            ∧ u.kept = (e.setLtr u.ltr).kept ∧ u.hlk.flags.track = true)
      ∧ (s.ltr.dir = .forward → s.ltr.trust = .synced → d.natAbs ≤ s.ltr.HT →
          ∃ u : State, exec (.acceptedEdge dt l) s = .next u.kick
            ∧ u.ltr = { s.ltr with H := 0, lastCorrection := d }
            ∧ u.kept = (e.setLtr u.ltr).kept ∧ (s.Unaimed → u = e.setLtr u.ltr)
            ∧ s.EyesMoveInto u (-d) ∧ (d < 0 → s.EyeEndsInto u d.natAbs))
      ∧ (s.ltr.dir = .forward → s.ltr.trust = .synced → s.ltr.HT < d.natAbs →
          ∃ u : State, exec (.acceptedEdge dt l) s = .next u.kick
            ∧ u.ltr = { s.ltr with lastCorrection := d, trust := .lost }
            ∧ u.kept = (e.setLtr u.ltr).kept ∧ u.fsc = [] ∧ u.hlk.flags.track = true
            ∧ (s.Tied → s.AbortsPositions u .positionLost))

/-! ## The fire scheduler -/

/-- R79: the lead of an entry, at arming and at every refresh, is V·τ/4,096 rounded half up, clamped at 4·P with LEAD_CLAMPED. -/
def Obligations.LeadIsTravelInLatency : Prop :=
  ∀ (l : Ltr) (tau : Nat),
    let quotient := (l.V * tau + 2048) / 4096
    let lead := if 4 * l.P < quotient then 4 * l.P else quotient
    let clamped := decide (4 * l.P < quotient)
    (∀ (slot : Slot) (number : Nat) (c : Chan) (x : Nat) (tray : Option Nat),
        (l.newEntry slot number c x tau tray).lead = lead ∧ (l.newEntry slot number c x tau tray).clamped = clamped
          ∧ (l.newEntry slot number c x tau tray).tau = tau)
      ∧ (∀ (e : FireEntry), e.tau = tau →
          match e.onRefresh l with
          | .keep e' => e'.lead = lead ∧ e'.clamped = clamped ∧ e'.tau = tau
          | .fire _ _ lead' clamped' => lead' = lead ∧ clamped' = clamped)
      ∧ lead ≤ 4 * l.P
      ∧ (l.V ≤ 65535 → tau ≤ 65535 → l.V * tau + 2048 < 2 ^ 32)
      ∧ (l.V = 0 → lead = 0 ∧ ∀ q, q < l.L → l.firePoint q lead = q)

/-- The three events that fire. A forward count that brings H to an entry's fire point fires it with skip 0, on time, and takes its
skip with skip 1 (R84). The refresh at the close of a FORWARD window fires an entry whose remaining distance is at or below its new
lead, late by the difference, and aims every other one anew (R86, R87). A home edge that moves H forward by a correction fires an
entry whose fire point it meets with skip 0, late by the counts beyond it (R88). Each fired ARMED trial becomes ACTIVE, its profile is
handed to its channel, and its watch opens with the fire (R93, R94, R100, R130). No other entry changes and no verdict is written. -/
def Obligations.ForwardCrossingFires : Prop :=
  ∀ (dt : Time) (s : State), (∀ k : Slot, s.obu.eyes[k] = none) →
    s.fsc.Pairwise (fun a b => a.slot ≠ b.slot ∧ a.channel ≠ b.channel) →
    let size := s.ltr.N * s.ltr.P
    let h := (s.ltr.H + 1) % size
    let v := if 0 < s.ltr.n then min 65535 s.ltr.n.toNat else 0
    let ahead := fun (e : FireEntry) => (e.F + size - s.ltr.H) % size
    let remaining := fun (e : FireEntry) => (if ahead e = 0 then size else ahead e) + e.lead + e.skip * size
    let quotient := fun (e : FireEntry) => (v * e.tau + 2048) / 4096
    let lead := fun (e : FireEntry) => min (4 * s.ltr.P) (quotient e)
    (s.ltr.ref.isSome →
        ∃ u : State, exec (.forwardCount dt) s = .next u.kick
          ∧ ((s.after dt).setLtr { s.ltr with H := h }).FiresInto u fun e =>
              if e.F = h then (if e.skip = 0 then .fire 0 false e.lead e.clamped else .keep { e with skip := 0 }) else .keep e)
      ∧ (s.T + dt = s.ltr.nextClose → 0 ≤ s.ltr.n →
          ∃ u : State, exec (.windowClose dt) s = .next u.kick
            ∧ (s.after dt).FiresInto u fun e =>
              if remaining e ≤ lead e then
                .fire (min 65535 (lead e - remaining e)) true (lead e) (decide (4 * s.ltr.P < quotient e))
              else .keep { e with lead := lead e, clamped := decide (4 * s.ltr.P < quotient e), F := (e.Q + size - lead e) % size,
                                  skip := if size + lead e < remaining e then 1 else 0 })
      ∧ ∀ l : LineNo, s.EdgeReady l .home true → s.ltr.dir = .forward → s.ltr.trust = .synced → size ≤ 2 * s.ltr.H →
        s.ltr.H < size → size - s.ltr.H ≤ s.ltr.HT →
          ∃ u : State, exec (.acceptedEdge dt l) s = .next u.kick
            ∧ ((s.edged dt l).setLtr { s.ltr with H := 0 }).FiresInto u fun e =>
              if 1 ≤ ahead e ∧ ahead e ≤ size - s.ltr.H then
                (if e.skip = 0 then .fire (min 65535 (size - s.ltr.H - ahead e)) true e.lead e.clamped
                 else .keep { e with skip := 0 })
              else .keep e

/-- Every step keeps every fire entry placed: its pass point on the loop, its fire point its lead before it, its lead at most 4·P, and
its skip 0 or 1, with the tracker sound, the records tied and the table sound. Each event moves an entry toward its target pass
without changing which pass it is: the remaining distance falls by 1 with a
forward count and rises by 1 with a backward one, moves by the jump of a correction, and stays at a refresh. The entry fires when
it has come down to the lead, or late when a jump or a refresh finds it at or below the lead. At arming the target pass is at
least the guard ahead (R80 to R89). -/
def Obligations.EntryKeepsItsTargetPass : Prop :=
  (∀ s t : State, s.Placed → step s = .next t → t.Placed)
    ∧ ∀ (l : Ltr), l.Sound →
      (∀ (e : FireEntry), e.Aimed l →
        (match e.onForward l.forward.H with
          | .keep e' => e'.Aimed l.forward ∧ e'.remaining l.forward + 1 = e.remaining l ∧ e.remaining l ≠ e.lead + 1
          | .fire late lateFire lead _ => e.remaining l = e.lead + 1 ∧ late = 0 ∧ lateFire = false ∧ lead = e.lead)
        ∧ (∀ e', e.onBackward l.H = .keep e' → (e.skip = 0 ∨ l.H ≠ e.F) → e'.remaining l.backward = e.remaining l + 1)
        ∧ (∀ j : Nat, l.homeOffset = -(j : Int) → 1 ≤ j →
            match e.onCorrection l l.homeOffset with
            | .keep e' => e'.remaining l.correct + j = e.remaining l
            | .fire late lateFire _ _ =>
              late = min 65535 (e.lead + j - e.remaining l) ∧ e.remaining l ≤ e.lead + j ∧ lateFire = true)
        ∧ (∀ d : Nat, l.homeOffset = (d : Int) →
            ∀ e', e.onCorrection l l.homeOffset = .keep e' → (e.skip = 0 ∨ d ≤ (l.H + l.L - e.F) % l.L) →
              e'.remaining l.correct = e.remaining l + d)
        ∧ (match e.onRefresh l with
          | .keep e' => e'.Aimed l ∧ e'.remaining l = e.remaining l ∧ e'.Q = e.Q
          | .fire late lateFire lead _ => e.remaining l ≤ lead ∧ late = min 65535 (lead - e.remaining l) ∧ lateFire = true))
      ∧ ∀ (slot : Slot) (number : Nat) (c : Chan) (x tau : Nat) (tray : Option Nat), x < l.L →
        let e := l.newEntry slot number c x tau tray
        e.Aimed l ∧ e.lead + l.P / 4 ≤ e.remaining l
          ∧ (tray = none → e.remaining l = l.ahead e.Q ∧ e.skip = 0)
          ∧ ∀ k, tray = some k → e.tray = k ∧ e.Q = (x + k * l.P) % l.L
              ∧ e.remaining l = if e.lead + l.P / 4 ≤ l.ahead e.Q then l.ahead e.Q else l.ahead e.Q + l.L

/-! ## Field lines -/

/-- A line's first sample after a reset is its accepted level; an equal sample clears the filter count, a differing one that is no
accepted edge adds 1 to it; and an edge that no block takes up only changes the accepted level (R10, R22, R27, R29 to R31). That a
first sample asserts no STOP, even on a line that holds STOP already, is the model's choice (log entry 8). -/
def Obligations.LineSamplesAndUntakenEdges : Prop :=
  (∀ (dt : Time) (s : State) (l : LineNo) (v : Level), (s.line l).started = false →
      exec (.lineSample dt l v) s
        = .next ((s.after dt).setLine l { s.line l with accepted := v, started := true, c := 0 }).kick)
    ∧ (∀ (dt : Time) (s : State) (l : LineNo), (s.line l).started = true →
        exec (.lineSample dt l (s.line l).accepted) s = .next ((s.after dt).setLine l { s.line l with c := 0 }).kick)
    ∧ (∀ (dt : Time) (s : State) (l : LineNo), (s.line l).started = true → (s.line l).c < (s.line l).cfg.g →
        exec (.lineSample dt l (s.line l).accepted.other) s
          = .next ((s.after dt).setLine l { s.line l with c := (s.line l).c + 1 }).kick)
    ∧ ∀ (dt : Time) (s : State) (l : LineNo) (fn : LineFn) (a : Bool), s.EdgeReady l fn a →
        fn = .unused ∨ fn = .general ∨ fn = .linkRequest ∨ (a = false ∧ (fn = .home ∨ fn = .stop ∨ fn = .linkBusy))
          ∨ (fn = .eye ∧ s.obu.observers[l] = none) →
        exec (.acceptedEdge dt l) s = .next (s.edged dt l).kick

/-- An edge of a line that a CHUTE trial watches (R28, R131, R132): the first going-active edge is the arrival, timed from the fire
to the edge's raw time and judged against the windows; the going-inactive edge after it ends the dwell; later going-active edges
are counted as extra up to 15; every other edge changes nothing. -/
def Obligations.EyeEdgeOfAWatch : Prop :=
  ∀ (dt : Time) (s : State) (l : LineNo) (a : Bool) (o : Owner) (w : Watch), s.EdgeReady l .eye a →
    s.obu.observers[l] = some o → s.obu.watches[o.slot] = some w →
    let raw := s.T + dt - BitVec.ofNat 32 ((s.line l).cfg.g + 2)
    let arrival := (raw - w.fire.part.tf).toNat
    ∃ w', exec (.acceptedEdge dt l) s
        = .next ((s.edged dt l).setObu { s.obu with watches := s.obu.watches.set o.slot (some w') }).kick
      ∧ (w.state = .opened → a = true → arrival < 2 ^ 31 →
          w' = { w with state := .arrived, arrival := some arrival, arrivalRaw := some raw,
                        item := some (if arrival < w.wOpen then .early else if w.wClose < arrival then .late else .pass) })
      ∧ (w.state = .opened → (a = false ∨ 2 ^ 31 ≤ arrival) → w' = w)
      ∧ (∀ r, w.state = .arrived → a = false → w.arrivalRaw = some r →
          w' = { w with state := .dwellTaken, dwell := some (raw - r).toNat })
      ∧ (w.state = .arrived → a = true → w' = w)
      ∧ (w.state = .dwellTaken → a = true → w' = { w with extra := if w.extra < 15 then w.extra + 1 else 15 })
      ∧ (w.state = .dwellTaken → a = false → w' = w)
      ∧ (w.state = .blocked → w' = w)

/-- A going-active edge of a line that an EYE trial observes is placed at its compensated progress and judged by its pass: a HIT
within the tolerance of an expected pass without one, EXTRA on a pass that has one, STRAY otherwise. A going-inactive edge measures
the length of a HIT and is otherwise discarded (R138, R139). -/
def Obligations.EyePassEdgeJudged : Prop :=
  ∀ (dt : Time) (s : State) (l : LineNo) (a : Bool) (o : Owner) (e : EyeObservation), s.EdgeReady l .eye a →
    s.obu.observers[l] = some o → s.obu.watches[o.slot] = none → s.obu.eyes[o.slot] = some e →
    let ue : Int := e.u - ((s.ltr.V * ((s.line l).cfg.g + 2) + 2048) / 4096 : Nat)
    let j : Int := (ue - e.uE0 + (s.ltr.P / 2 : Nat)) / (s.ltr.P : Nat)
    let d : Int := ue - e.uE0 - j * (s.ltr.P : Nat)
    let near := 0 ≤ j ∧ j < (e.passes : Int) ∧ -(e.tol : Int) ≤ d ∧ d ≤ e.tol
    ∃ e', exec (.acceptedEdge dt l) s
        = .next ((s.edged dt l).setObu { s.obu with eyes := s.obu.eyes.set o.slot (some e') }).kick
      ∧ (a = true → near → j.toNat ∉ e.hitPasses →
          e' = { e with hits := min 255 (e.hits + 1), hitPasses := j.toNat :: e.hitPasses, dSum := e.dSum + d,
                        dMin := some (match e.dMin with | none => d | some m => if m ≤ d then m else d),
                        dMax := some (match e.dMax with | none => d | some m => if m ≤ d then d else m),
                        lastLead := some (.hit, ue) })
      ∧ (a = true → near → j.toNat ∈ e.hitPasses →
          e' = { e with extras := min 255 (e.extras + 1), lastLead := some (.extra, ue) })
      ∧ (a = true → ¬near → e' = { e with strays := min 255 (e.strays + 1), lastLead := some (.stray, ue) })
      ∧ (∀ from_ : Int, a = false → e.lastLead = some (.hit, from_) →
          let fails := ∃ x, e.expected = some x ∧ (ue - from_ < (x : Int) - e.lenTol ∨ (x : Int) + e.lenTol < ue - from_)
          (fails → e'.lenFailures = min 255 (e.lenFailures + 1)) ∧ (¬fails → e'.lenFailures = e.lenFailures)
            ∧ e' = { e with lenMin := some (match e.lenMin with | none => ue - from_ | some m => min m (ue - from_)),
                            lenMax := some (match e.lenMax with | none => ue - from_ | some m => max m (ue - from_)),
                            lenFailures := e'.lenFailures, lastLead := none })
      ∧ (a = false → (∀ from_, e.lastLead ≠ some (.hit, from_)) → e' = { e with lastLead := none })

/-- A STOP line going active takes a RUNNING controller into HALTED with cause STOP (R31, R33, R70 to R72); a HALTED one stays HALTED
and its cause becomes STOP, a releasing link is told of the STOP, and the releasing trial's ABORTED end takes the reason STOP (R70,
R164). An entry into HALTED anew, after a Resume, makes the end of a trial that still releases ABORTED with its cause, unless it is
CANCELLED (R72, R73). -/
def Obligations.StopEdgeHalts : Prop :=
  ∀ (dt : Time) (s : State) (l : LineNo), s.EdgeReady l .stop true →
    (s.ttb.run = .running → ∃ u : State, exec (.acceptedEdge dt l) s = .next u.kick ∧ (s.edged dt l).HaltsInto u .stop)
      ∧ ∀ c, s.ttb.run = .halted c →
        ∃ u : State, exec (.acceptedEdge dt l) s = .next u.kick ∧ u.ttb.run = .halted .stop
          ∧ u.kept = ((s.edged dt l).setTtb { s.ttb with run := .halted .stop }).kept ∧ u.fsc = s.fsc ∧ u.cdu = s.cdu
          ∧ u.vlg = s.vlg ∧ (s.dlk.state ≠ .releasing → u.dlk = s.dlk)
          ∧ (∀ k : Slot, (s.dlk.state = .releasing → ∀ o, s.dlk.owner = some o → o.slot ≠ k) → u.trial k = s.trial k)
          ∧ ∀ o, s.dlk.state = .releasing → s.dlk.owner = some o → s.dlk.ToldStop u.dlk
            ∧ (∀ t c', s.trial o.slot = some t → t.ending = .aborted c' →
                u.trial o.slot = some { t with ending := .aborted .stop })
            ∧ ∀ t, s.trial o.slot = some t → t.ending = .open_ ∨ t.ending = .cancelled → u.trial o.slot = some t

/-- A Halt request takes a RUNNING controller into HALTED with cause HALT; while HALTED it changes nothing. It replies with run
control and the cause held, in two bytes without a presence byte (R70 to R72; the layout is DEDUCED, log entry 12). -/
def Obligations.HaltRequestHalts : Prop :=
  ∀ (dt : Time) (s : State) (f : Frame) (rest : List Frame), s.Serves f rest → f.kind = 0x13#8 → f.payload = [] →
    (s.ttb.run = .running →
        ∃ u : State, exec (.halt dt) s = .next (u.replied f [1#8, 1#8]) ∧ (s.serving dt rest).HaltsInto u .halt)
      ∧ (s.ttb.run = .halted .halt → exec (.halt dt) s = .next ((s.serving dt rest).replied f [1#8, 1#8]))
      ∧ (s.ttb.run = .halted .stop → exec (.halt dt) s = .next ((s.serving dt rest).replied f [1#8, 0#8]))

/-- LINK_BUSY going active: a handover check has seen busy; an OWNED or RELEASING drive is taken back, its trial's verdict ABORTED
with reason TAKEN_BACK joins the log at once, and with no trial waiting the link is IDLE with LINK_REQUEST released; in IDLE and
FAULT nothing happens. The bad QUERY count and the indications stay as they were in IDLE, until the next arming clears them, and with
them the measurement, the last drive status and the latched values (which R162 does not name: DEDUCED, log entry 39). The report of a
take-back carries the bad QUERY count, the indications and the last drive status as they
stood, the verdict the flags and, of a link that has measured, the drive part (R150, R154, R162, R166). -/
def Obligations.BusyEdgeTakesTheDriveBack : Prop :=
  ∀ (dt : Time) (s : State) (l : LineNo), s.EdgeReady l .linkBusy true →
    (s.dlk.state = .checking →
        exec (.acceptedEdge dt l) s = .next ((s.edged dt l).setDlk { s.dlk with busySeen := true }).kick)
      ∧ (s.dlk.state = .idle ∨ s.dlk.state = .fault → exec (.acceptedEdge dt l) s = .next (s.edged dt l).kick)
      ∧ ∀ (o : Owner) (t : Trial), s.dlk.state = .owned ∨ s.dlk.state = .releasing → s.dlk.owner = some o →
        s.trial o.slot = some t → t.state = .active → t.target.kind = .drive → t.ending = .open_ →
        ∃ (u : State) (r : Verdict), exec (.acceptedEdge dt l) s = .next u.kick ∧ u.kept = (s.edged dt l).kept
          ∧ u.vlg.records = s.vlg.records ++ [r] ∧ r.serial = s.vlg.nextSerial ∧ r.number = t.number ∧ r.kind = .drive
          ∧ r.outcome = .aborted ∧ r.reason = some .takenBack ∧ r.tArm = t.tArm.getD 0 ∧ r.target = t.target.index
          ∧ r.flags.setpointClamped = s.dlk.setpointClamped ∧ r.flags.releaseFailed = s.dlk.releaseFailed
          ∧ (s.dlk.measurement = none → r.drive = none)
          ∧ (∀ (y : DriveLatch) (m : Measurement), s.dlk.latch = some y → s.dlk.measurement = some m →
              r.drive = some { index := y.index.val, setpoint := s.dlk.setpointSent, v0 := m.v0, peak := m.peak.getD m.v0,
                               rise := m.rise.getD 0,
                               settle := if m.lastIn = some true then some (m.lastOut.getD 0 + 1) else none,
                               lastStatus := s.dlk.lastStatus })
          ∧ (let report := (s.dlk.takeBack (s.T + dt)).report;
              report.abort = some .takenBack ∧ report.badQuery = s.dlk.badQuery ∧ report.faultSeen = s.dlk.faultSeen
                ∧ report.refused = s.dlk.refused ∧ report.linkError = s.dlk.linkError
                ∧ report.setpointClamped = s.dlk.setpointClamped ∧ report.releaseFailed = s.dlk.releaseFailed
                ∧ report.lastStatus = s.dlk.lastStatus ∧ report.latch = s.dlk.latch)
          ∧ (s.anyLoaded = false → u.lmx.asserted = false ∧ u.trial o.slot = none
              ∧ u.dlk.state = .idle ∧ u.dlk.owner = none ∧ u.dlk.cur = none ∧ u.dlk.next = none ∧ u.dlk.plan = []
              ∧ u.dlk.abort = some .takenBack ∧ u.dlk.badQuery = s.dlk.badQuery ∧ u.dlk.faultSeen = s.dlk.faultSeen
              ∧ u.dlk.refused = s.dlk.refused ∧ u.dlk.linkError = s.dlk.linkError
              ∧ u.dlk.setpointClamped = s.dlk.setpointClamped ∧ u.dlk.releaseFailed = s.dlk.releaseFailed
              ∧ u.dlk.measurement = s.dlk.measurement ∧ u.dlk.lastStatus = s.dlk.lastStatus ∧ u.dlk.latch = s.dlk.latch)

/-! ## The coil driver -/

/-- A PWM boundary, 50 µs after the one before it, starts a new period and moves every channel: a channel whose profile does not end
at it holds what its own boundary leaves, and one whose profile ends is IDLE with its outputs off (R98, R100 to R102). A profile that
ends hands its coil done on with ending COMPLETE: the owner's FILLING trace completes ENDED and is reduced, a COIL trial has its verdict
with the coil outcome, a CHUTE trial has its verdict if its watch has ended, and keeps the results if it runs (R110, R121, R124, R127,
R135, R142). Each FILLING trace of an ending profile is taken to be of its channel, as its grant makes it (R120). -/
def Obligations.PeriodBoundaryMovesEveryChannel : Prop :=
  ∀ (dt : Time) (s : State), s.T + dt = s.cdu.periodStart + 50 →
    ∃ u : State, exec (.periodBoundary dt) s = .next u.kick
      ∧ u.kept = (((s.after dt).setCdu { s.cdu with periodStart := s.T + dt }).setTru { s.tru with scanBegun := false }).kept
      ∧ u.ltr = s.ltr ∧ u.cdu.periodStart = s.T + dt ∧ u.tru.scanBegun = false
      ∧ (s.anyLoaded = false → ∀ c : Chan,
          (((s.channel c).boundary (s.T + dt)).2 = false → u.channel c = ((s.channel c).boundary (s.T + dt)).1)
            ∧ (((s.channel c).boundary (s.T + dt)).2 = true → (u.channel c).state = .idle
                ∧ (u.channel c).pullDuty = 0 ∧ (u.channel c).retDuty = 0))
      ∧ ((∀ c : Chan, ((s.channel c).boundary (s.T + dt)).2 = false) → u.vlg = s.vlg ∧ u.ttb = s.ttb)
      ∧ (s.Tied → s.ttb.Sound → s.anyLoaded = false →
          (∀ (d : Chan) (o : Owner) (b : Buf) (tr : Trace), ((s.channel d).boundary (s.T + dt)).2 = true → (s.channel d).owner = some o →
            s.tru.fillingFor o.number = some b → s.tru.buffers[b] = some tr → tr.channel = d) →
          ∀ (c : Chan) (o : Owner) (t : Trial) (n : Chan) (x : ChuteRecord),
          ((s.channel c).boundary (s.T + dt)).2 = true → (s.channel c).owner = some o → s.trial o.slot = some t →
          s.zmr.chuteRecord t.target.index = some (n, x) →
          s.CoilDoneInto u c o.slot t x
            ∧ ((∀ m : Chan, m ≠ c → ((s.channel m).boundary (s.T + dt)).2 = false) →
                u.vlg = s.vlg ∨ ∃ r, u.vlg.records = s.vlg.records ++ [r] ∧ r.serial = s.vlg.nextSerial))

/-- A pending profile starts at the first boundary, at index 0 with t_b that boundary's T; uninterrupted it runs each phase for its
length, skipping those of length 0, with its index one more each period, and ends IDLE at the boundary after its whole length and
at no boundary before (R100 to R102). -/
def Obligations.ProfileRunsItsLength : Prop :=
  ∀ (p : Profile) (c : Channel) (t : Time), p.inRange = true → c.profile = some p → c.startPending = true →
    c.state = .idle → c.returnRequested = false →
    (∀ i : Nat, i < p.total →
        let d := Channel.afterBoundaries t (i + 1) c
        d.state = p.phaseAt i ∧ d.p = some i ∧ d.tb = some t ∧ d.profile = some p ∧ d.startPending = false)
      ∧ (Channel.afterBoundaries t (p.total + 1) c).state = .idle
      ∧ ∀ i : Nat, i ≤ p.total →
        ((Channel.afterBoundaries t i c).boundary (t + BitVec.ofNat 32 (50 * i))).2 = decide (i = p.total)

/-- PULLn and RETn of a channel are never on together, and after a return has been interrupted by a halt or a trip PULL stays off
through the boundary that closes the partial period and the latched dead periods after it (R99, R103). -/
def Obligations.OutputsNeverTogether : Prop :=
  (∀ (s : State) (c : Chan) (x : Nat), ¬(s.pullPin c x = true ∧ s.retPin c x = true))
    ∧ ∀ (c : Channel) (p : Profile), c.profile = some p → c.state = .ret ∨ c.state = .gap2 →
      c.force.guard = p.dead + 1 ∧ c.force.pullDuty = 0 ∧ c.force.retDuty = 0
        ∧ (∀ v t, (c.trip v t).guard = p.dead + 1 ∧ (c.trip v t).pullDuty = 0 ∧ (c.trip v t).retDuty = 0)
        ∧ ∀ (q : Profile) (o : Owner) (n : Nat) (t : Time), 1 ≤ n → n ≤ p.dead →
          (Channel.afterBoundaries t n (c.force.handOver q o)).pullDuty = 0

/-! ## The trace unit -/

/-- Once in a period, 25 µs into it, the scan begins: the channels in PULL_IN, HOLD or RETURN, lowest first, each with the current
its sample-and-hold captured; pending reads join it (R114, R117). -/
def Obligations.ScanStartHoldsTheCurrents : Prop :=
  ∀ (dt : Time) (s : State) (sense : Vector Adc 16), s.tru.scanBegun = false → s.T + dt = s.cdu.periodStart + 25 →
    exec (.scanStart dt sense) s
      = .next ((s.after dt).setTru { s.tru with
          scanBegun := true, converted := 0, readsJoined := decide (s.tru.pendingReads ≠ []),
          scanList := ((List.finRange 16).filter (fun c => decide ((s.channel c).state = .pullIn
              ∨ (s.channel c).state = .hold ∨ (s.channel c).state = .ret))).map fun c => (c, sense[c]) }).kick

/-- A sample at or above the trip level of a channel in PULL_IN, HOLD or RETURN trips it within the sample's event: FAULT with its
record, nothing pending, both outputs off, the FAULT flag set; and a COIL trial that owned it has its verdict COIL_FAULT (R106,
R107, R110, R142). -/
def Obligations.SampleTripsTheChannel : Prop :=
  ∀ (dt : Time) (s : State) (c : Chan) (v : Adc) (rest : List (Chan × Adc)) (p : Profile), s.tru.scanBegun = true →
    s.T + dt = s.cdu.periodStart + BitVec.ofNat 32 (26 + s.tru.converted) → s.tru.scanList = (c, v) :: rest →
    (s.channel c).state = .pullIn ∨ (s.channel c).state = .hold ∨ (s.channel c).state = .ret →
    (s.channel c).profile = some p → p.trip ≤ v.toNat →
    ∃ u : State, exec (.sampleDelivery dt) s = .next u.kick
      ∧ u.kept = ((s.after dt).setTru { s.tru with scanList := rest, converted := s.tru.converted + 1 }).kept
      ∧ (u.channel c).state = .fault
      ∧ (u.channel c).fault = some { phase := (s.channel c).state, p := (s.channel c).p.getD 0, value := v, t := s.T + dt }
      ∧ (u.channel c).startPending = false ∧ (u.channel c).pullDuty = 0 ∧ (u.channel c).retDuty = 0
      ∧ u.hlk.flags.fault = true
      ∧ ∀ (o : Owner) (t : Trial) (n : Nat), s.anyLoaded = false → (s.channel c).owner = some o → s.trial o.slot = some t →
        t.state = .active → t.target = .coil n → t.ending = .open_ →
        ∃ r, u.vlg.records = s.vlg.records ++ [r] ∧ r.number = t.number ∧ r.outcome = .coilFault ∧ r.reason = none
          ∧ r.serial = s.vlg.nextSerial ∧ u.trial o.slot = none

/-- A sample that does not trip is dropped, or appended to the owner's FILLING trace when the period index is a multiple of m; the
256th sample completes the trace FULL (R115, R119, R121). -/
def Obligations.SampleKeptInItsTrace : Prop :=
  ∀ (dt : Time) (s : State) (c : Chan) (v : Adc) (rest : List (Chan × Adc)), s.tru.scanBegun = true →
    s.T + dt = s.cdu.periodStart + BitVec.ofNat 32 (26 + s.tru.converted) → s.tru.scanList = (c, v) :: rest →
    (∀ p, (s.channel c).profile = some p → v.toNat < p.trip) →
    let u0 := { s.tru with scanList := rest, converted := s.tru.converted + 1 }
    ((s.channel c).owner = none ∨ (s.channel c).p = none → exec (.sampleDelivery dt) s = .next ((s.after dt).setTru u0).kick)
      ∧ ∀ (o : Owner) (i : Nat), (s.channel c).owner = some o → (s.channel c).p = some i →
        (s.tru.fillingFor o.number = none → exec (.sampleDelivery dt) s = .next ((s.after dt).setTru u0).kick)
          ∧ ∀ (b : Buf) (tr : Trace), s.tru.fillingFor o.number = some b → s.tru.buffers[b] = some tr →
            let sampled := (s.channel c).state = .pullIn ∨ (s.channel c).state = .hold ∨ (s.channel c).state = .ret
            let tr' := { tr with samples := tr.samples ++ [v],
                                 nPull := tr.nPull + (if (s.channel c).state = .pullIn then 1 else 0),
                                 nHold := tr.nHold + (if (s.channel c).state = .hold then 1 else 0),
                                 nReturn := tr.nReturn + (if (s.channel c).state = .ret then 1 else 0) }
            (i % tr.fields.m ≠ 0 → exec (.sampleDelivery dt) s = .next ((s.after dt).setTru u0).kick)
              ∧ (i % tr.fields.m = 0 → sampled → tr.samples.length ≠ 255 →
                  exec (.sampleDelivery dt) s
                    = .next ((s.after dt).setTru { u0 with buffers := s.tru.buffers.set b (some tr') }).kick)
              ∧ (i % tr.fields.m = 0 → sampled → tr.samples.length = 255 → s.anyLoaded = false →
                  ∃ u : State, exec (.sampleDelivery dt) s = .next u.kick
                    ∧ u.tru.buffers[b] = some { tr' with state := .completeUnread,
                                                         completion := some (.full, s.tru.completionCounter) }
                    ∧ u.tru.completionCounter = s.tru.completionCounter + 1 ∧ u.vlg = s.vlg ∧ u.ttb = s.ttb)

/-- R125: a trace's dip is at the first PULL_IN sample after sample 0 that lies theta or more below a running peak of at least c_min;
the peak is the running peak there, or the greatest PULL_IN sample. R126: the hold mean is the integer mean of the HOLD samples of
the last quarter of the hold phase. R127: the coil outcome is the first row of the table that applies, of COIL_FAULT, NOT_TRACED,
COIL_NO_MOTION, COIL_SLOW, COIL_FAST, HOLD_LOW, HOLD_HIGH and PASS; an untraced trial reports no dip, peak 0 and no hold mean, with
no buffer, and a WITHDRAWN start leaves no COIL part. -/
def Obligations.TraceReducesToDipAndHold : Prop :=
  (∀ tr : Trace, tr.nPull + tr.nHold ≤ tr.samples.length →
      let xs := (tr.samples.take tr.nPull).map BitVec.toNat
      let top := fun (i : Nat) => (xs.take i).foldl max 0
      let dips := fun (i : Nat) => 1 ≤ i ∧ i < xs.length ∧ tr.fields.cMin ≤ top i ∧ xs.getD i 0 + tr.fields.theta ≤ top i
      let quarter := (((tr.samples.drop tr.nPull).take tr.nHold).zipIdx tr.nPull).filterMap fun x =>
        if tr.pullPeriods + tr.holdPeriods - tr.holdPeriods / 4 ≤ x.2 * tr.fields.m
            ∧ x.2 * tr.fields.m < tr.pullPeriods + tr.holdPeriods then some x.1.toNat else none
      (∀ i, dips i → (∀ j, j < i → ¬dips j) →
          tr.reduce.dip = some (i * tr.fields.m * 50 + 25) ∧ tr.reduce.peak = top i
            ∧ (tr.samples.length ≤ 256 → tr.fields.m ≤ 8 → i * tr.fields.m * 50 + 25 ≤ 102025))
        ∧ ((∀ i, ¬dips i) → tr.reduce.dip = none ∧ tr.reduce.peak = top xs.length)
        ∧ tr.reduce.holdMean = (if quarter = [] then none else some (quarter.sum / quarter.length)))
    ∧ (∀ (e : CoilEnding) (traced : Bool) (f : TraceFields) (x : CoilFigures),
        coilOutcome e traced f x =
          if e = .fault then .coilFault
          else if traced = false then .notTraced
          else if x.dip = none then .coilNoMotion
          else if ∃ d, x.dip = some d ∧ f.dipMax < d then .coilSlow
          else if ∃ d, x.dip = some d ∧ d < f.dipMin then .coilFast
          else if ∃ h, x.holdMean = some h ∧ h < f.holdLo then .holdLow
          else if ∃ h, x.holdMean = some h ∧ f.holdHi < h then .holdHigh
          else .pass)
    ∧ ∀ (s : State) (c : Chan) (e : CoilEnding) (phase : Option ChanState) (t : Trial) (n : Chan) (r : ChuteRecord),
      s.zmr.chuteRecord t.target.index = some (n, r) →
      let rep := s.coilReport c e phase t
      (t.held.buffer = none → rep.buffer = none ∧ rep.figures = { dip := none, peak := 0, holdMean := none })
        ∧ (∀ b x, t.held.buffer = some b → s.tru.results[c] = some x → rep.buffer = some b ∧ rep.figures = x)
        ∧ rep.outcome = coilOutcome e t.held.buffer.isSome r.trace rep.figures
        ∧ (e = .withdrawn → rep.part = none)
        ∧ (e ≠ .withdrawn → rep.part = some { outcome := rep.outcome, buffer := rep.buffer, dip := rep.figures.dip,
                                              peak := rep.figures.peak, holdMean := rep.figures.holdMean })

/-- The pending reads follow the scan list. Each keeps its result; the last makes the ReadAnalog reply with every input, every
result and the T at which it ended, and the handler is free again (R117, R118, R182). -/
def Obligations.AnalogReadConverts : Prop :=
  ∀ (dt : Time) (s : State) (v : Adc) (x : AnalogInput) (more : List AnalogInput), s.tru.scanBegun = true →
    s.T + dt = s.cdu.periodStart + BitVec.ofNat 32 (26 + s.tru.converted) → s.tru.scanList = [] →
    s.tru.readsJoined = true → s.tru.pendingReads = x :: more →
    let results := s.tru.readResults ++ [(x, v)]
    (more ≠ [] →
        exec (.analogReadConversionEnd dt v) s
          = .next ((s.after dt).setTru { s.tru with pendingReads := more, converted := s.tru.converted + 1,
                                                    readResults := results }).kick)
      ∧ ∀ tag : Byte, more = [] → s.hlk.handler = .waiting tag →
        exec (.analogReadConversionEnd dt v) s
          = .next (((s.after dt).setTru { s.tru with pendingReads := [], converted := s.tru.converted + 1,
                                                     readsJoined := false, readResults := [] }).setHlk
              { s.hlk with handler := .idle,
                           reply := some { kind := 0x8C#8, tag := tag,
                                           payload := BitVec.ofNat 8 results.length
                                             :: (results.flatMap fun r => BitVec.ofNat 8 r.1.code :: beBytes 2 r.2.toNat)
                                             ++ beBytes 4 (s.T + dt).toNat } }).kick

/-! ## Watches -/

/-- The expiry of a watch (R133, R135, R145): an OPEN watch is MISSING, an ARRIVED one is STILL_BLOCKED, any ends and its line loses
the observer. With the coil done not yet in, nothing else changes; with it in, the CHUTE trial's verdict is written with the item's
outcome, or COIL_FAULT, with its arm time, the FIRE, ITEM and COIL parts, and the fire's and the watch's flags (R144 to R147). -/
def Obligations.WatchExpiryEndsTheWatch : Prop :=
  ∀ (dt : Time) (s : State) (k : Slot) (w : Watch), s.obu.watches[k] = some w → w.state ≠ .ended → w.expiry = s.T + dt →
    let w' := { w with state := .ended, item := if w.state = .opened then some .missing else w.item,
                       stillBlocked := w.stillBlocked || decide (w.state = .arrived),
                       dwell := if w.state = .arrived then none else w.dwell }
    let ended : Obu := { s.obu with watches := s.obu.watches.set k (some w'),
                                    observers := match w.line with
                                      | some l => s.obu.observers.set l none
                                      | none => s.obu.observers }
    (s.obu.coils[k] = none → exec (.watchExpiry dt k) s = .next ((s.after dt).setObu ended).kick)
      ∧ ∀ (t : Trial) (n : Nat) (tray : Option Nat) (r : CoilReport), s.trial k = some t → t.state = .active →
        t.target = .chute n tray → t.ending = .open_ → s.obu.coils[k] = some r →
        ∃ (u : State) (x : Verdict), exec (.watchExpiry dt k) s = .next u.kick ∧ u.kept = (s.after dt).kept
          ∧ u.vlg.records = s.vlg.records ++ [x] ∧ x.number = t.number ∧ x.serial = s.vlg.nextSerial ∧ x.kind = .chute
          ∧ x.target = n ∧ x.reason = none ∧ x.fire = some w.fire.part
          ∧ x.item = some { arrival := w.arrival, dwell := w'.dwell, extra := w.extra }
          ∧ x.outcome = (if r.ending = .fault then .coilFault else w'.item.getD .missing)
          ∧ x.tArm = t.tArm.getD 0 ∧ x.sensor = none
          ∧ x.coil = (if r.ending = .withdrawn then none
              else some { outcome := r.outcome, buffer := r.buffer, dip := r.figures.dip, peak := r.figures.peak,
                          holdMean := r.figures.holdMean })
          ∧ x.flags.leadClamped = w.fire.leadClamped ∧ x.flags.lateFire = w.fire.lateFire
          ∧ x.flags.stillBlocked = w'.stillBlocked
          ∧ (s.obu.drives[k] = none → x.drive = none ∧ x.flags.setpointClamped = false ∧ x.flags.releaseFailed = false)
          ∧ (s.anyLoaded = false → u.trial k = none ∧ u.obu.watches[k] = none)

/-! ## The drive link -/

/-- The deadline of the handover check: with busy seen the trial's verdict is ABORTED with reason CONFLICT; with it clear the link
becomes OWNED with V as V_0, and the step's SETPOINT, clamped to the drive's maximum, starts on its select (R151 to R155, R158). While
an exchange runs, its select is LOW for 70 µs and every other HIGH, DCLK has 32 clocks from 2 and from 38 µs, and DOUT carries the
request frame of R151, command code, value and check byte, most significant bit first; without one the selects are HIGH, DOUT is LOW,
and DCLK is LOW unless a take-back has stopped it within a clock (R151, R152). That a clock is LOW in its first half, and DOUT LOW in
the 2 µs before the first clock and while the answer comes in, is the model's reading (log entry 37). -/
def Obligations.CheckDeadlineOwnsOrConflicts : Prop :=
  (∀ (dt : Time) (s : State), s.dlk.state = .checking → s.dlk.deadline = some (s.T + dt) →
    (∀ (o : Owner) (t : Trial), s.dlk.busySeen = true → s.dlk.owner = some o → s.trial o.slot = some t → t.state = .active →
        t.target.kind = .drive → t.ending = .open_ →
        ∃ (u : State) (r : Verdict), exec (.checkDeadline dt) s = .next u.kick ∧ u.kept = (s.after dt).kept
          ∧ u.vlg.records = s.vlg.records ++ [r] ∧ r.number = t.number ∧ r.serial = s.vlg.nextSerial ∧ r.outcome = .aborted
          ∧ r.reason = some .conflict)
      ∧ ∀ x : DriveLatch, s.dlk.busySeen = false → s.dlk.latch = some x → s.dlk.cur = none →
        ∃ d, exec (.checkDeadline dt) s = .next ((s.after dt).setDlk d).kick
          ∧ d.state = .owned ∧ d.owner = s.dlk.owner ∧ d.latch = some x ∧ d.deadline = none
          ∧ d.setpointSent = min x.step x.record.maximum ∧ d.setpointClamped = decide (x.record.maximum < x.step)
          ∧ d.cur = some { cmd := .step, value := min x.step x.record.maximum, select := x.record.select, start := s.T + dt }
          ∧ ∃ m, d.measurement = some m ∧ m.v0 = s.ltr.V ∧ m.up = decide (s.ltr.V ≤ x.vExp) ∧ m.windows = 0 ∧ m.rise = none
            ∧ m.theta90 = if s.ltr.V ≤ x.vExp then s.ltr.V + (9 * (x.vExp - s.ltr.V) + 5) / 10
                else s.ltr.V - (9 * (s.ltr.V - x.vExp) + 5) / 10)
    ∧ ∀ (s : State) (at_ : Time),
      let clocked := fun (offset : Nat) => (2 ≤ offset ∧ offset < 34) ∨ (38 ≤ offset ∧ offset < 70)
      (∀ x : Exchange, s.dlk.cur = some x →
          let offset := (at_ - x.start).toNat
          let code := match x.cmd with
            | .step => 0x31
            | .base => 0x31
            | .query => 0x32
            | .stop => 0x33
            | .release => 0x34
          let hi := x.value / 256 % 256
          let lo := x.value % 256
          let frame := [code, hi, lo, 255 - (code + hi + lo) % 256]
          let bit := fun (i : Nat) => (frame.getD (i / 8) 0).testBit (7 - i % 8)
          (∀ k : Fin 8, s.selectPin k at_ = if x.select = k ∧ offset < 70 then .low else .high)
            ∧ (∀ half : Bool, s.dclkPin at_ half = if clocked offset ∧ half = true then .high else .low)
            ∧ s.doutPin at_ = if 2 ≤ offset ∧ offset < 34 ∧ bit (offset - 2) = true then .high else .low)
        ∧ (s.dlk.cur = none → (∀ k : Fin 8, s.selectPin k at_ = .high) ∧ s.doutPin at_ = .low
            ∧ ((∀ stop, s.dlk.clockStop = some stop → ¬clocked stop.toNat) → ∀ half : Bool, s.dclkPin at_ half = .low))

/-- The end of an exchange, 80 µs after its start, judges the answer. A good answer keeps its status and value. A step taken, a base
SETPOINT or a STOP lets the link go on with what waits, and a QUERY does with its bad count back at 0; a step refused while OWNED
sets refused and leaves RELEASE alone to send, and refused later it leaves the plan; a DRIVE_FAULT is seen, and while OWNED leaves
RELEASE alone, while RELEASING takes a base SETPOINT from the plan. A first bad answer to a QUERY is counted. A bad one to a SETPOINT
or a STOP is a link error, and so is a second bad one to a QUERY, after which the latched values, the indications and the last drive
status are not kept; a good one to RELEASE ends the trial with its drive outcome (R151 to R153, R156, R159 to R161, R165, R166). -/
def Obligations.ExchangeEndJudgesTheAnswer : Prop :=
  ∀ (dt : Time) (s : State) (x : Exchange) (status hi lo check : Byte), s.dlk.cur = some x → s.T + dt = x.start + 80 →
    let good := (status + hi + lo + check).toNat = 255
    let run := exec (.exchangeEnd dt status hi lo check) s
    let ack := status.getLsbD 0
    let fault := status.getLsbD 1
    let kept : Dlk := { s.dlk with cur := none, lastStatus := some (status, hi.toNat * 256 + lo.toNat) }
    (x.cmd = .step → good → fault = false → ack = true ∨ s.dlk.state ≠ .owned →
        ∃ d, run = .next ((s.after dt).setDlk d).kick ∧ d.state = s.dlk.state ∧ d.owner = s.dlk.owner
          ∧ d.faultSeen = s.dlk.faultSeen ∧ d.refused = (s.dlk.refused || !ack)
          ∧ d.lastStatus = some (status, hi.toNat * 256 + lo.toNat)
          ∧ Dlk.GoesOn { kept with refused := s.dlk.refused || !ack } d (s.T + dt))
      ∧ (x.cmd = .step → good → fault = false → ack = false → s.dlk.state = .owned →
          ∃ d, run = .next ((s.after dt).setDlk d).kick ∧ Dlk.GivesUp { kept with refused := true } d (s.T + dt))
      ∧ (good → fault = true → x.cmd ≠ .release →
          let seen : Dlk := { kept with faultSeen := true, badQuery := if x.cmd = .query then 0 else s.dlk.badQuery,
                                        refused := s.dlk.refused || (decide (x.cmd = .step) && !ack) }
          ∃ d, run = .next ((s.after dt).setDlk d).kick ∧ (s.dlk.state = .owned → seen.GivesUp d (s.T + dt))
            ∧ (s.dlk.state = .releasing →
                Dlk.GoesOn { seen with plan := s.dlk.plan.filter (fun c => decide (c ≠ .base)),
                                       next := if s.dlk.next = some .base then none else s.dlk.next } d (s.T + dt)))
      ∧ (x.cmd = .query → good → fault = false →
          ∃ d, run = .next ((s.after dt).setDlk d).kick ∧ d.state = s.dlk.state ∧ d.badQuery = 0
            ∧ Dlk.GoesOn { kept with badQuery := 0 } d (s.T + dt))
      ∧ (x.cmd = .base ∨ x.cmd = .stop → good → fault = false →
          ∃ d, run = .next ((s.after dt).setDlk d).kick ∧ d.state = s.dlk.state ∧ kept.GoesOn d (s.T + dt))
      ∧ (x.cmd = .query → ¬good → s.dlk.badQuery = 0 →
          ∃ d, run = .next ((s.after dt).setDlk d).kick ∧ d.state = s.dlk.state ∧ d.badQuery = 1
            ∧ d.lastStatus = s.dlk.lastStatus ∧ d.linkError = s.dlk.linkError
            ∧ Dlk.GoesOn { s.dlk with cur := none, badQuery := 1 } d (s.T + dt))
      ∧ ∀ (o : Owner) (t : Trial), s.dlk.owner = some o → s.trial o.slot = some t → t.state = .active →
        t.target.kind = .drive → t.ending = .open_ → s.dlk.abort = none →
        (¬good → x.cmd ≠ .release → (x.cmd = .query → s.dlk.badQuery = 1) → s.dlk.faultSeen = false → s.dlk.refused = false →
            ∃ (u : State) (r : Verdict), run = .next u.kick ∧ u.kept = (s.after dt).kept ∧ u.dlk.state = .fault ∧ u.lmx.asserted = false
              ∧ u.hlk.flags.fault = true ∧ u.vlg.records = s.vlg.records ++ [r] ∧ r.number = t.number
              ∧ r.outcome = .driveLinkError ∧ r.reason = none
              ∧ (s.anyLoaded = false → u.dlk.owner = none ∧ u.dlk.latch = none ∧ u.dlk.lastStatus = none
                  ∧ u.dlk.faultSeen = false ∧ u.dlk.refused = false ∧ u.dlk.linkError = false
                  ∧ u.dlk.setpointClamped = false ∧ u.dlk.releaseFailed = false))
          ∧ (¬good → x.cmd = .release →
              ∃ (u : State) (r : Verdict), run = .next u.kick ∧ u.dlk.state = .fault ∧ u.hlk.flags.fault = true
                ∧ u.vlg.records = s.vlg.records ++ [r] ∧ r.number = t.number ∧ r.flags.releaseFailed = true)
          ∧ ∀ (y : DriveLatch) (m : Measurement), good → x.cmd = .release → s.dlk.latch = some y →
            s.dlk.measurement = some m → s.dlk.linkError = false →
            let excess := match m.peak with
              | none => 0
              | some p => if m.up then p - y.vExp else y.vExp - p
            ∃ (u : State) (r : Verdict), run = .next u.kick ∧ u.kept = (s.after dt).kept
              ∧ u.vlg.records = s.vlg.records ++ [r] ∧ r.number = t.number ∧ r.reason = none
              ∧ r.outcome = (if s.dlk.faultSeen = true ∨ status.getLsbD 1 = true then .driveFault
                  else if s.dlk.refused = true then .driveRefused
                  else match m.rise with
                    | none => .driveSlow
                    | some i => if y.record.riseLimit < i then .driveSlow
                        else if y.record.overshootLimit < excess then .driveOvershoot
                        else if m.lastIn = some true then .pass
                        else .driveUnsettled)

/-- A window that closes while the link is OWNED is recorded with its V. Before the last window of the duration a QUERY is made ready:
it starts at once, or waits behind the exchange that runs, and is dropped if one waits there already. At the last the link is RELEASING
with the base SETPOINT and then RELEASE to send, the first of them at once or behind the exchange that runs, in place of a waiting
QUERY (R153, R157, R158, R160). Nothing else of the link changes. -/
def Obligations.WindowMeasuredWhileOwned : Prop :=
  ∀ (dt : Time) (s : State) (x : DriveLatch) (m : Measurement), s.T + dt = s.ltr.nextClose → s.dlk.state = .owned →
    s.dlk.latch = some x → s.dlk.measurement = some m →
    let v := if 0 < s.ltr.n then min 65535 s.ltr.n.toNat else 0
    let i := m.windows + 1
    let reached := if m.up then m.theta90 ≤ v else v ≤ m.theta90
    let inside := x.vExp ≤ v + x.record.band ∧ v ≤ x.vExp + x.record.band
    ∃ (u : State) (m' : Measurement), exec (.windowClose dt) s = .next u.kick ∧ u.ltr.V = v
      ∧ (s.Unaimed → u = ((s.after dt).setLtr u.ltr).setDlk u.dlk)
      ∧ m'.windows = i ∧ m'.v0 = m.v0 ∧ m'.up = m.up ∧ m'.theta90 = m.theta90
      ∧ m'.rise = (if m.rise ≠ none then m.rise else if reached then some i else none)
      ∧ (∃ p, m'.peak = some p ∧ (m.peak = none → p = v)
          ∧ ∀ q, m.peak = some q → p = if m.up then max q v else min q v)
      ∧ m'.lastIn = some (decide inside) ∧ m'.lastOut = (if inside then m.lastOut else some i)
      ∧ (let measured : Dlk := { s.dlk with measurement := some m' }
        (i < x.duration →
            (s.dlk.cur = none →
                u.dlk = { measured with
                  cur := some { cmd := .query, value := 0, select := x.record.select, start := s.T + dt }, next := none,
                  plan := s.dlk.plan.erase .query, clockStop := none })
              ∧ ∀ y, s.dlk.cur = some y → u.dlk = { measured with next := some .query })
          ∧ (x.duration ≤ i → measured.ReleasesWith u.dlk (s.T + dt) .base
              ∧ u.dlk = { measured with state := .releasing, cur := u.dlk.cur, next := u.dlk.next, plan := u.dlk.plan,
                                        clockStop := u.dlk.clockStop }))

/-! ## The host line -/

/-- The hunter reads back exactly the frame whose bytes arrive, whatever its payload of up to 240 bytes and its arrival times, and
goes on with the bytes after it; a part of a frame is held (R178 to R180). -/
def Obligations.FrameRoundTrip : Prop :=
  ∀ (f : Frame) (ts : List Time), f.payload.length ≤ 240 → ts.length = f.payload.length + 6 →
    f.bytes.length = f.payload.length + 6
      ∧ hunt false 0 (f.bytes.zip ts) = ([f], [])
      ∧ (∀ more : List (Byte × Time),
          hunt false 0 (f.bytes.zip ts ++ more) = (f :: (hunt false 0 more).1, (hunt false 0 more).2))
      ∧ ∀ n : Nat, n < f.payload.length + 6 → hunt false 0 ((f.bytes.zip ts).take n) = ([], (f.bytes.zip ts).take n)

/-- The byte that completes a frame puts it into the request queue of 4, or its tag and kind into the busy list of 8, or sets
OVERRUN; in HUNT a start byte is held and any other dropped (R179 to R181). -/
def Obligations.CompleteFrameJoinsTheQueue : Prop :=
  ∀ (dt : Time) (s : State) (b : Byte),
    (∀ f : Frame, f.payload.length ≤ 240 → s.hlk.held.map Prod.fst ++ [b] = f.bytes →
        (∀ x, s.hlk.held.getLast? = some x → (s.T + dt - x.2).toNat ≤ 2000) →
        (s.hlk.queue.length < 4 →
            exec (.hostByteArrival dt b .high) s
              = .next ((s.after dt).setHlk { s.hlk with held := [], queue := s.hlk.queue ++ [f] }).kick)
          ∧ (4 ≤ s.hlk.queue.length → s.hlk.busy.length < 8 →
              exec (.hostByteArrival dt b .high) s
                = .next ((s.after dt).setHlk { s.hlk with held := [], busy := s.hlk.busy ++ [(f.tag, f.kind)] }).kick)
          ∧ (4 ≤ s.hlk.queue.length → 8 ≤ s.hlk.busy.length →
              exec (.hostByteArrival dt b .high) s
                = .next ((s.after dt).setHlk { s.hlk with held := [], overrun := true }).kick))
      ∧ (s.hlk.held = [] → b ≠ 0xC3#8 → exec (.hostByteArrival dt b .high) s = .next (s.after dt).kick)
      ∧ (s.hlk.held = [] → b = 0xC3#8 →
          exec (.hostByteArrival dt b .high) s = .next ((s.after dt).setHlk { s.hlk with held := [(b, s.T + dt)] }).kick)

/-- A line error drops every held byte. A frame discarded by its gap, by its length or by its check is examined again from the byte
after its start byte: the frames found there join the queue or the busy list, and bytes from a start byte on that are part of a frame
are held with their own times, unless the gap has run out for them too (R179 to R181). With no start byte among the bytes nothing is
held. A byte held for exactly 2,000 µs is still in time. That a late byte with a line error first abandons the frame by its gap, so
that frames found among its bytes join the queue, is the model's choice (log entry 33). -/
def Obligations.LineErrorGapAndDiscard : Prop :=
  ∀ (dt : Time) (s : State) (first last : Byte × Time) (mid : List (Byte × Time)),
    s.hlk.held = first :: mid → s.hlk.held.getLast? = some last →
    let late := 2000 < (s.T + dt - last.2).toNat
    (late → ∃ fs : List Frame, Reexamined true mid fs []
        ∧ (let after := fun held : List (Byte × Time) =>
            Host.Outcome.next ((s.after dt).setHlk (fs.foldl Hlk.accept { s.hlk with held := held })).kick
          exec (.gapExpiry dt) s = after [] ∧ (∀ b : Byte, exec (.hostByteArrival dt b .low) s = after [])
            ∧ (∀ b : Byte, b ≠ 0xC3#8 → exec (.hostByteArrival dt b .high) s = after [])
            ∧ exec (.hostByteArrival dt 0xC3#8 .high) s = after [(0xC3#8, s.T + dt)]))
      ∧ (¬late → ∀ b : Byte, exec (.hostByteArrival dt b .low) s = .next ((s.after dt).setHlk { s.hlk with held := [] }).kick)
      ∧ (∀ (len kind tag b : Byte) (payload : List Byte) (check : Byte), ¬late → first.1 = 0xC3#8 → len.toNat ≤ 240 →
          payload.length = len.toNat → mid.map Prod.fst = len :: kind :: tag :: (payload ++ [check]) →
          check.toNat * 256 + b.toNat ≠ (crc16 (len :: kind :: tag :: payload)).toNat →
          ∃ (fs : List Frame) (held : List (Byte × Time)), Reexamined false (mid ++ [(b, s.T + dt)]) fs held
            ∧ exec (.hostByteArrival dt b .high) s
                = .next ((s.after dt).setHlk (fs.foldl Hlk.accept { s.hlk with held := held })).kick)
      ∧ ((∀ x ∈ mid, x.1 ≠ 0xC3#8) →
          (late → exec (.gapExpiry dt) s = .next ((s.after dt).setHlk { s.hlk with held := [] }).kick)
            ∧ (∀ b : Byte, exec (.hostByteArrival dt b .low) s = .next ((s.after dt).setHlk { s.hlk with held := [] }).kick)
            ∧ (late → exec (.hostByteArrival dt 0xC3#8 .high) s
                = .next ((s.after dt).setHlk { s.hlk with held := [(0xC3#8, s.T + dt)] }).kick)
            ∧ (∀ len : Byte, ¬late → mid = [] → first.1 = 0xC3#8 → 240 < len.toNat →
                exec (.hostByteArrival dt len .high) s = .next ((s.after dt).setHlk { s.hlk with held := [] }).kick)
            ∧ (∀ (len kind tag b : Byte) (payload : List Byte) (check : Byte), ¬late → first.1 = 0xC3#8 → len.toNat ≤ 240 →
                payload.length = len.toNat → mid.map Prod.fst = len :: kind :: tag :: (payload ++ [check]) → b ≠ 0xC3#8 →
                check.toNat * 256 + b.toNat ≠ (crc16 (len :: kind :: tag :: payload)).toNat →
                exec (.hostByteArrival dt b .high) s = .next ((s.after dt).setHlk { s.hlk with held := [] }).kick))

/-- At the last stop bit of a frame the transmitter takes the first waiting item: a busy answer, the reply, then the notices HALT,
TRACK, FAULT, LOG, a notice with the state as it then stands (R184, R186, R187, R191). The model's readings in it: after the Reset
reply it takes nothing and the SOFT reset is due (log entry 29), the HALT notice has a presence byte (log entry 12), and the last
stop bit may fall in either microsecond about the line time (log entry 33). -/
def Obligations.TransmitterTakesInOrder : Prop :=
  ∀ (dt : Time) (s : State) (x : Transmission), s.hlk.tx = some x →
    spansBytes s.hlk.strap x.frame.size (s.T + dt - x.start).toNat = true →
    let sent := fun (f : Frame) => some { frame := f, start := s.T + dt : Transmission }
    let after := fun (h : Hlk) => exec (.frameTransmitEnd dt) s = .next ((s.after dt).setHlk h)
    (s.hlk.resetPhase = .replySending → after { s.hlk with tx := none, resetPhase := .due })
      ∧ (∀ y rest, s.hlk.resetPhase = .off ∨ s.hlk.resetPhase = .replyWaiting → s.hlk.busy = y :: rest →
          after { s.hlk with tx := sent { kind := 0xFE#8, tag := y.1, payload := [y.2, 0x03#8] }, busy := rest })
      ∧ (∀ f, s.hlk.resetPhase = .off → s.hlk.busy = [] → s.hlk.reply = some f →
          after { s.hlk with tx := sent f, reply := none })
      ∧ (∀ f, s.hlk.resetPhase = .replyWaiting → s.hlk.busy = [] → s.hlk.reply = some f →
          after { s.hlk with tx := sent f, reply := none, resetPhase := .replySending })
      ∧ (s.hlk.resetPhase = .off → s.hlk.busy = [] → s.hlk.reply = none →
          let n := s.hlk.notices
          let runItems : List Byte := match s.ttb.run with
            | .running => [0#8, 0#8, 0#8]
            | .halted .stop => [1#8, 1#8, 0#8]
            | .halted .halt => [1#8, 1#8, 1#8]
          let notice := fun (kind : Byte) (payload : List Byte) (left : NoticeSet) =>
            after { s.hlk with tx := sent { kind := kind, tag := 0, payload := payload }, notices := left }
          (n.halt = true → notice 0xF1#8 runItems { n with halt := false })
            ∧ (n.halt = false → n.track = true →
                notice 0xF2#8 (BitVec.ofNat 8 s.ltr.trust.code :: beBytes 3 s.ltr.H) { n with track := false })
            ∧ (n.halt = false → n.track = false → n.fault = true →
                ∃ mask : Nat, (∀ c : Chan, mask.testBit c.val = decide ((s.channel c).state = .fault))
                  ∧ notice 0xF3#8 (beBytes 2 mask ++ [BitVec.ofNat 8 s.dlk.state.code]) { n with fault := false })
            ∧ (n.halt = false → n.track = false → n.fault = false → n.log = true →
                notice 0xF4#8 [BitVec.ofNat 8 s.vlg.records.length, BitVec.ofNat 8 s.vlg.reserved] { n with log := false })
            ∧ (n = .empty → after { s.hlk with tx := none }))

/-! ## Requests of the host link -/

/-- A request of every kind of the table is refused with BAD_LENGTH when its payload has not the bytes the table gives, and a kind
that is not in the table with UNKNOWN_KIND; no block is told (R182 to R184). The reason codes of every refusal run from 0x01 to 0x12
in the order of R184's table. -/
def Obligations.WrongLengthAndUnknownKindRefused : Prop :=
  (∀ (s : State) (f : Frame) (rest : List Frame), s.Serves f rest →
    (∀ (c : Instr) (dt : Time) (len : Nat), requestOf c = some (dt, f.kind, len) → f.payload.length ≠ len →
        exec c s = .next (s.refusal dt f rest .badLength))
      ∧ ∀ dt : Time, f.kind.toNat = 0 ∨ 0x16 < f.kind.toNat →
        exec (.unknownKind dt) s = .next (s.refusal dt f rest .unknownKind))
    ∧ Coded RefuseReason.code 0x01
      [.unknownKind, .badLength, .queueFull, .badValue, .busy, .overlap, .claimed, .noTrial, .tableFull, .duplicate, .notInZone,
       .noRecord, .noEye, .noTrace, .noLinkLines, .gone, .stopActive, .notFaulted]

/-- Identify, ReadLines and ReadTable change nothing; Identify carries the part's codes, capacities and line rate (the revision and
the capacities in one byte each, DEDUCED, log entry 19), ReadLines four bytes for each line, and ReadTable, in slot order, five for
each occupied slot: slot and kind, number, state with hold reason or end, and rank by load order (R37, R74, R185, R189). The codes of
these items are numbered as R185 gives them, in the orders of R21, R54 and R61. -/
def Obligations.ReadingRequestsChangeNothing : Prop :=
  (Coded LineFn.code 0 [.unused, .general, .home, .eye, .stop, .linkRequest, .linkBusy] ∧ Coded LineDir.code 0 [.inward, .outward]
      ∧ Coded Level.code 0 [.low, .high] ∧ Coded boolCode 0 [false, true] ∧ Coded Kind.code 0 [.chute, .coil, .eye, .drive]
      ∧ Coded TrialState.code 0 [.loaded, .armed, .active]
      ∧ Coded HoldReason.code 0 [.halted, .setup, .channelFault, .linkFault, .noPosition, .resource, .order, .logFull, .traceBusy]
      ∧ Coded TrialEnd.code 0 [.open_, .cancelled, .aborted .stop, .aborted .halt])
    ∧ ∀ (dt : Time) (s : State) (f : Frame) (rest : List Frame), s.Serves f rest → f.payload = [] →
    (f.kind = 0x01#8 → exec (.identify dt) s = .next ((s.serving dt rest).replied f
        [0x3A#8, 0x17#8, 0x0C#8, 0x10#8, 0x01#8, 48#8, 128#8, 16#8, 48#8, 4#8, 8#8, BitVec.ofNat 8 s.hlk.strap.val]))
      ∧ (f.kind = 0x0B#8 → ∃ p, exec (.readLines dt) s = .next ((s.serving dt rest).replied f p) ∧ p.length = 192
          ∧ ∀ l : LineNo, (p.drop (4 * l.val)).take 4
              = [BitVec.ofNat 8 (s.line l).cfg.fn.code,
                 BitVec.ofNat 8 ((s.line l).cfg.dir.code + 2 * (s.line l).effDir.code + 4 * (s.line l).cfg.output.code
                   + 8 * (s.line l).cfg.safe.code + 16 * boolCode (s.line l).effPull + 32 * (s.line l).cfg.active.code
                   + 64 * (s.line l).accepted.code + 128 * boolCode (decide ((s.line l).accepted = (s.line l).cfg.active))),
                 BitVec.ofNat 8 (s.line l).cfg.g,
                 BitVec.ofNat 8 (match s.linePin l with | some v => v.code | none => 0)])
      ∧ (f.kind = 0x10#8 → ∃ p, exec (.readTable dt) s = .next ((s.serving dt rest).replied f p)
          ∧ p.length = 5 * allSlots.countP (fun k => (s.trial k).isSome)
          ∧ ∀ (k : Slot) (t : Trial), s.trial k = some t →
            let older := allSlots.countP fun j => match s.trial j with
              | some u => decide ((s.ttb.loadCounter - t.loadOrder).toNat < (s.ttb.loadCounter - u.loadOrder).toNat)
              | none => false
            (p.drop (5 * allSlots.countP (fun j => decide (j < k) && (s.trial j).isSome))).take 5
              = [BitVec.ofNat 8 (k.val + 64 * t.target.kind.code), BitVec.ofNat 8 (t.number / 256),
                 BitVec.ofNat 8 t.number,
                 BitVec.ofNat 8 (match t.state with
                   | .loaded => 4 * (match t.hold with | some h => h.code | none => 0)
                   | .armed => 1
                   | .active => 2 + 4 * t.ending.code),
                 BitVec.ofNat 8 older])

/-- Status reports the items of R190's table from one instant, in 42 bytes, then the hold reasons as they stand (R63), and clears the
flags and OVERRUN that it reports; pending notices stay (R187, R190). The model's readings in it: the hold reasons last, after their
number and in slot order (log entry 11), the presence byte at the front (log entry 12), and the flags with OVERRUN as one byte (log
entry 15). The codes of run control, halt cause, tracker state, direction, channel states and link state are numbered in the orders in
which R70, the tracker's items, R97 and R150 list them (R185). -/
def Obligations.StatusReportsAndClearsFlags : Prop :=
  (RunControl.running.code = 0 ∧ (∀ c, (RunControl.halted c).code = 1) ∧ Coded HaltCause.code 0 [.stop, .halt]
      ∧ Coded Trust.code 0 [.unsynced, .synced, .lost] ∧ Coded LoopDir.code 0 [.forward, .reverse]
      ∧ Coded ChanState.code 0 [.idle, .pullIn, .hold, .gap1, .ret, .gap2, .recover, .fault]
      ∧ Coded LinkState.code 0 [.idle, .checking, .owned, .releasing, .fault])
    ∧ ∀ (dt : Time) (s : State) (f : Frame) (rest : List Frame), s.Serves f rest → f.kind = 0x02#8 → f.payload = [] →
    let holds := allSlots.filterMap (fun k => (s.trial k).bind Trial.hold)
    ∃ p, exec (.status dt) s
        = .next (((s.serving dt rest).setHlk
            { s.hlk with queue := rest, flags := .empty, overrun := false }).replied f p)
      ∧ p.drop 42 = BitVec.ofNat 8 holds.length :: holds.map (fun h => BitVec.ofNat 8 h.code) ∧ p.length = 43 + holds.length
      ∧ field p 1 4 = (s.T + dt).toNat ∧ field p 5 1 = s.ltr.trust.code
      ∧ (s.ltr.Sound → field p 6 3 = s.ltr.H ∧ field p 9 2 = s.ltr.V) ∧ field p 11 1 = s.ltr.dir.code
      ∧ (field p 12 3 : Int) = s.ltr.lastCorrection % 2 ^ 24
      ∧ field p 0 1 = s.ttb.run.code ∧ (∀ c, s.ttb.run = .halted c → field p 16 1 = c.code)
      ∧ field p 15 1 = s.ttb.run.code ∧ field p 17 1 = boolCode s.lmx.stopHolds
      ∧ field p 18 1 = s.ttb.countState .loaded ∧ field p 19 1 = s.ttb.countState .armed
      ∧ field p 20 1 = s.ttb.countState .active
      ∧ (s.Reserved → field p 21 1 = s.vlg.records.length ∧ field p 22 1 = s.vlg.reserved)
      ∧ (s.fsc.length < 256 → field p 23 1 = s.fsc.length) ∧ field p 24 1 = s.dlk.state.code
      ∧ (∀ c : Chan, field p (25 + c.val) 1 = (s.channel c).state.code)
      ∧ ∀ b : Byte, p[41]? = some b → b.getLsbD 0 = s.hlk.flags.halt ∧ b.getLsbD 1 = s.hlk.flags.track
        ∧ b.getLsbD 2 = s.hlk.flags.fault ∧ b.getLsbD 3 = s.hlk.flags.log ∧ b.getLsbD 4 = s.hlk.overrun

/-- Subscribe replaces the subscriptions by its mask, ignoring bits 4 to 7, withdraws the pending notices that the mask leaves out,
makes none pending, and replies with the subscriptions and the flags, which it does not clear (R188; the layout of the flags is
the model's, log entry 15). -/
def Obligations.SubscribeReplacesSubscriptions : Prop :=
  ∀ (dt : Time) (s : State) (f : Frame) (rest : List Frame) (m : Byte), s.Serves f rest → f.kind = 0x03#8 → f.payload = [m] →
    ∃ h : Hlk, exec (.subscribe dt) s
        = .next (((s.serving dt rest).setHlk h).replied f [m &&& 0x0F#8, BitVec.ofNat 8 s.hlk.flagMask])
      ∧ h = { s.hlk with queue := rest, subs := h.subs, notices := h.notices }
      ∧ h.subs.halt = m.getLsbD 0 ∧ h.subs.track = m.getLsbD 1 ∧ h.subs.fault = m.getLsbD 2 ∧ h.subs.log = m.getLsbD 3
      ∧ ∀ k : NoticeKind, h.notices.has k = (s.hlk.notices.has k && h.subs.has k)

/-- A Reset request is accepted in every state: its empty reply is placed, and no further request, of a known or an unknown kind, is
taken before the SOFT reset (R191). A request command that comes meanwhile occurs not at all, T included: the model's choice (log
entry 2). -/
def Obligations.ResetRequestAccepted : Prop :=
  ∀ (dt : Time) (s : State) (f : Frame) (rest : List Frame), s.Serves f rest → f.kind = 0x04#8 → f.payload = [] →
    exec (.reset dt) s
        = .next (((s.serving dt rest).setHlk { s.hlk with queue := rest, resetPhase := .replyWaiting }).replied f [])
      ∧ ∀ (u : State) (c : Instr) (d : Time), u.hlk.resetPhase ≠ .off →
        (c = .unknownKind d ∨ ∃ kind len, requestOf c = some (d, kind, len)) → exec c u = .next u

/-! ## Requests of the blocks -/

/-- SetLoop checks N, then P, then that no trial is ARMED or ACTIVE; accepted, it takes the geometry with HT clamped to P/4, sets H,
R and last correction to 0 and the tracker to UNSYNCED, and replies with N, P, L and HT as held; V, direction, n and the reference
stay (R1 to R3, R16). -/
def Obligations.SetLoopTakesTheGeometry : Prop :=
  ∀ (dt : Time) (s : State) (f : Frame) (rest : List Frame), s.Serves f rest → f.kind = 0x05#8 → f.payload.length = 6 →
    let n := field f.payload 0 2
    let p := field f.payload 2 2
    let ht := field f.payload 4 2
    let legal := (16 ≤ n ∧ n ≤ 1024) ∧ 64 ≤ p ∧ p ≤ 8192
    (¬legal → exec (.setLoop dt) s = .next (s.refusal dt f rest .badValue))
      ∧ (legal → (∃ k t, s.trial k = some t ∧ t.state ≠ .loaded) →
          exec (.setLoop dt) s = .next (s.refusal dt f rest .busy))
      ∧ (legal → (∀ k t, s.trial k = some t → t.state = .loaded) →
          ∃ u : State, exec (.setLoop dt) s
              = .next (u.replied f (beBytes 2 n ++ beBytes 2 p ++ beBytes 3 (n * p) ++ beBytes 2 (min ht (p / 4))))
            ∧ u.ltr = { s.ltr with N := n, P := p, HT := min ht (p / 4), H := 0, R := 0, lastCorrection := 0,
                                   trust := .unsynced }
            ∧ u.kept = ((s.serving dt rest).setLtr u.ltr).kept
            ∧ (s.ltr.trust ≠ .unsynced → u.hlk.flags.track = true)
            ∧ (s.ltr.trust = .unsynced → u.hlk.flags = s.hlk.flags))

/-- SetZone checks its bases, then that the windows share no chute, then that no occupied slot targets a window it moves; accepted,
it takes the bases, makes the chute records of each moved window undefined and keeps every other, and replies with the bases and
what moved (R40, R41). -/
def Obligations.SetZoneMovesTheWindows : Prop :=
  ∀ (dt : Time) (s : State) (f : Frame) (rest : List Frame), s.Serves f rest → f.kind = 0x06#8 → f.payload.length = 4 →
    let a := field f.payload 0 2
    let b := field f.payload 2 2
    let targeted := fun (w : Nat) => ∃ k t c, s.trial k = some t ∧ t.target.chute? = some c ∧ w ≤ c ∧ c ≤ w + 7
    let busy := (a ≠ s.zmr.baseA ∧ targeted s.zmr.baseA) ∨ (b ≠ s.zmr.baseB ∧ targeted s.zmr.baseB)
    let legal := a ≤ 1016 ∧ b ≤ 1016
    let apart := a + 8 ≤ b ∨ b + 8 ≤ a
    (¬legal → exec (.setZone dt) s = .next (s.refusal dt f rest .badValue))
      ∧ (legal → ¬apart → exec (.setZone dt) s = .next (s.refusal dt f rest .overlap))
      ∧ (legal → apart → busy → exec (.setZone dt) s = .next (s.refusal dt f rest .busy))
      ∧ (legal → apart → ¬busy →
          ∃ u : State, exec (.setZone dt) s
              = .next (u.replied f (beBytes 2 a ++ beBytes 2 b ++ [BitVec.ofNat 8 (boolCode (decide (a ≠ s.zmr.baseA))),
                                                                   BitVec.ofNat 8 (boolCode (decide (b ≠ s.zmr.baseB)))]))
            ∧ u.zmr.baseA = a ∧ u.zmr.baseB = b ∧ u.zmr.eyes = s.zmr.eyes ∧ u.zmr.drives = s.zmr.drives
            ∧ (∀ n : Chan, u.zmr.chutes[n] = if n.val < 8 then (if a = s.zmr.baseA then s.zmr.chutes[n] else none)
                else if b = s.zmr.baseB then s.zmr.chutes[n] else none)
            ∧ (∀ n : Chan, u.zmr.chuteOf n = if n.val < 8 then a + n.val else b + n.val - 8)
            ∧ u.kept = ((s.serving dt rest).setZmr u.zmr).kept)

/-- SetChute defines the record of the channel that serves its chute with every field carried, unless a field is out of range, a
code is no eye line or no trace enable, or the chute is not in zone (BAD_VALUE), or the chute's record is in use by an ARMED or
ACTIVE trial (BUSY); every other record stays (R43 to R47, R50). Its reply carries the chute number once and then the channel
(DEDUCED, log entry 13). -/
def Obligations.SetChuteStoresTheRecord : Prop :=
  (∀ (dt : Time) (s : State) (f : Frame) (rest : List Frame) (r : ChuteRecord), s.Serves f rest → f.kind = 0x07#8 →
      f.payload = beBytes 2 r.chute ++ r.bytes → r.chute < 65536 → r.S < 2 ^ 24 → r.tau < 65536 → r.wOpen < 2 ^ 24 →
      r.wClose < 2 ^ 24 → r.wLate < 2 ^ 24 →
      let p := r.profile
      let x := r.trace
      (p.pullDuty < 65536 ∧ p.pullPeriods < 65536 ∧ p.holdDuty < 65536 ∧ p.holdPeriods < 65536 ∧ p.dead < 256
          ∧ p.returnDuty < 65536 ∧ p.returnPeriods < 65536 ∧ p.recover < 65536 ∧ p.trip < 65536) →
      (x.m < 256 ∧ x.theta < 65536 ∧ x.cMin < 65536 ∧ x.dipMin < 2 ^ 24 ∧ x.dipMax < 2 ^ 24 ∧ x.holdLo < 65536
          ∧ x.holdHi < 65536) →
      let inUse := ∃ k t, s.trial k = some t ∧ t.state ≠ .loaded ∧ t.target.chute? = some r.chute
      let profile := (1 ≤ p.pullDuty ∧ p.pullDuty ≤ 256) ∧ 1 ≤ p.pullPeriods ∧ p.holdDuty ≤ 256 ∧ 1 ≤ p.dead
        ∧ (1 ≤ p.returnDuty ∧ p.returnDuty ≤ 256) ∧ 1 ≤ p.trip ∧ p.trip ≤ 4095
      let trace := (x.m = 1 ∨ x.m = 2 ∨ x.m = 4 ∨ x.m = 8) ∧ (1 ≤ x.theta ∧ x.theta ≤ 4095) ∧ x.cMin ≤ 4095
        ∧ (x.dipMin ≤ x.dipMax ∧ x.dipMax ≤ 1048575) ∧ x.holdLo ≤ x.holdHi ∧ x.holdHi ≤ 4095
      let legal := r.chute ≤ 1023 ∧ r.S < s.ltr.N * s.ltr.P ∧ r.wOpen ≤ r.wClose ∧ r.wClose + r.wLate ≤ 16777215 ∧ profile ∧ trace
      (s.zmr.channelOf r.chute = none ∨ ¬legal → exec (.setChute dt) s = .next (s.refusal dt f rest .badValue))
        ∧ ∀ n : Chan, s.zmr.channelOf r.chute = some n → legal →
          (inUse → exec (.setChute dt) s = .next (s.refusal dt f rest .busy))
            ∧ (¬inUse → ∃ u : State, exec (.setChute dt) s
                  = .next (u.replied f (beBytes 2 r.chute ++ BitVec.ofNat 8 n.val :: r.bytes))
                ∧ u.zmr.chutes[n] = some r ∧ (∀ m : Chan, m ≠ n → u.zmr.chutes[m] = s.zmr.chutes[m])
                ∧ u.kept = ((s.serving dt rest).setZmr u.zmr).kept ∧ u.zmr.baseA = s.zmr.baseA ∧ u.zmr.baseB = s.zmr.baseB
                ∧ u.zmr.eyes = s.zmr.eyes ∧ u.zmr.drives = s.zmr.drives))
    ∧ ∀ (dt : Time) (s : State) (f : Frame) (rest : List Frame), s.Serves f rest → f.kind = 0x07#8 → f.payload.length = 50 →
      (48 ≤ field f.payload 7 1 ∧ field f.payload 7 1 ≠ 255) ∨ 2 ≤ field f.payload 34 1 →
      exec (.setChute dt) s = .next (s.refusal dt f rest .badValue)

/-- SetEye and SetDrive define the record they name with every field carried, unless a field, the index, the line or the select is
out of range (BAD_VALUE) or the record is in use (BUSY), and reply with the index and the fields; every other record stays (R43, R48
to R50). Without an expected length the length tolerance is not checked (DEDUCED, log entry 18). -/
def Obligations.SetEyeAndSetDriveStoreTheirRecords : Prop :=
  (∀ (dt : Time) (s : State) (f : Frame) (rest : List Frame) (k : Fin 16) (r : EyeRecord), s.Serves f rest → f.kind = 0x08#8 →
      f.payload = r.setEyePayload k → r.X < 2 ^ 24 → r.tol < 65536 → r.lenTol < 65536 → r.passes < 256 →
      (∀ e, r.expected = some e → 1 ≤ e ∧ e < 65536) →
      let inUse := ∃ j t, s.trial j = some t ∧ t.state ≠ .loaded ∧ t.target = .eye k
      let legal := r.X < s.ltr.N * s.ltr.P ∧ r.tol ≤ s.ltr.P / 2 ∧ 1 ≤ r.passes
        ∧ ∀ e, r.expected = some e → e ≤ s.ltr.P ∧ r.lenTol ≤ s.ltr.P
      (¬legal → exec (.setEye dt) s = .next (s.refusal dt f rest .badValue))
        ∧ (legal → inUse → exec (.setEye dt) s = .next (s.refusal dt f rest .busy))
        ∧ (legal → ¬inUse → ∃ u : State, exec (.setEye dt) s = .next (u.replied f f.payload)
            ∧ u.kept = ((s.serving dt rest).setZmr { s.zmr with eyes := s.zmr.eyes.set k (some r) }).kept))
    ∧ (∀ (dt : Time) (s : State) (f : Frame) (rest : List Frame), s.Serves f rest →
        (f.kind = 0x08#8 → f.payload.length = 12 → 16 ≤ field f.payload 0 1 ∨ 48 ≤ field f.payload 1 1 →
            exec (.setEye dt) s = .next (s.refusal dt f rest .badValue))
          ∧ (f.kind = 0x09#8 → f.payload.length = 13 → 8 ≤ field f.payload 0 1 ∨ 8 ≤ field f.payload 1 1 →
              exec (.setDrive dt) s = .next (s.refusal dt f rest .badValue)))
    ∧ ∀ (dt : Time) (s : State) (f : Frame) (rest : List Frame) (k : Fin 8) (r : DriveRecord), s.Serves f rest →
      f.kind = 0x09#8 → f.payload = r.setDrivePayload k → r.base < 65536 → r.maximum < 65536 → r.checkMs < 256 →
      r.riseLimit < 65536 → r.overshootLimit < 65536 → r.band < 65536 →
      let inUse := ∃ j t step vExp dur, s.trial j = some t ∧ t.state ≠ .loaded ∧ t.target = .drive k step vExp dur
      let legal := r.base ≤ r.maximum ∧ 1 ≤ r.checkMs ∧ 1 ≤ r.riseLimit ∧ r.riseLimit ≤ 1000
      (¬legal → exec (.setDrive dt) s = .next (s.refusal dt f rest .badValue))
        ∧ (legal → inUse → exec (.setDrive dt) s = .next (s.refusal dt f rest .busy))
        ∧ (legal → ¬inUse → ∃ u : State, exec (.setDrive dt) s = .next (u.replied f f.payload)
            ∧ u.kept = ((s.serving dt rest).setZmr { s.zmr with drives := s.zmr.drives.set k (some r) }).kept)

/-- SetLine is refused BAD_VALUE for a line number or a code that names nothing, CLAIMED when another line holds the single-holder
function it gives, BUSY when the line is in use (an eye line by its recorded holder: DEDUCED, log entry 32), and is otherwise
accepted: the line takes the configuration and the holders follow, its accepted level stays, and its filter count is
cleared by a change of g. Giving or taking HOME leaves the tracker UNSYNCED, and a STOP condition that begins halts (R15, R25,
R30, R31, R34 to R36). The codes of its levels, directions and functions are the numbers of R185, in the order of R21. -/
def Obligations.SetLineConfiguresTheLine : Prop :=
  (Coded LineFn.code 0 [.unused, .general, .home, .eye, .stop, .linkRequest, .linkBusy] ∧ Coded LineDir.code 0 [.inward, .outward]
      ∧ Coded Level.code 0 [.low, .high] ∧ Coded boolCode 0 [false, true])
    ∧ (∀ (dt : Time) (s : State) (f : Frame) (rest : List Frame) (l : LineNo) (cfg : LineConfig), s.Serves f rest →
      f.kind = 0x0A#8 → cfg.g < 256 →
      f.payload = [BitVec.ofNat 8 l.val, BitVec.ofNat 8 cfg.dir.code, BitVec.ofNat 8 cfg.output.code,
                   BitVec.ofNat 8 cfg.safe.code, BitVec.ofNat 8 (boolCode cfg.pullUp), BitVec.ofNat 8 cfg.active.code,
                   BitVec.ofNat 8 cfg.g, BitVec.ofNat 8 cfg.fn.code] →
      let old := s.line l
      let claimed := cfg.fn.single = true ∧ ∃ m, s.lmx.holderOf cfg.fn = some m ∧ m ≠ l
      let begun := ∃ k t, s.trial k = some t ∧ t.state ≠ .loaded ∧ (t.target.kind = .chute ∨ t.target.kind = .eye)
      let handover := fun (fn : LineFn) => fn = .linkRequest ∨ fn = .linkBusy
      let busy := (old.cfg.fn = .eye ∧ s.ttb.lineHolder[l] ≠ none
            ∧ (cfg.fn ≠ old.cfg.fn ∨ cfg.dir ≠ old.cfg.dir ∨ cfg.active ≠ old.cfg.active))
          ∨ (¬(cfg.fn = .home ↔ old.cfg.fn = .home) ∧ begun)
          ∨ (s.dlk.state.engaged = true ∧ cfg ≠ old.cfg ∧ (handover old.cfg.fn ∨ (handover cfg.fn ∧ cfg.fn ≠ old.cfg.fn)))
      let new := { old with cfg := cfg, c := if cfg.g = old.cfg.g then old.c else 0 }
      (claimed → exec (.setLine dt) s = .next (s.refusal dt f rest .claimed))
        ∧ (¬claimed → busy → exec (.setLine dt) s = .next (s.refusal dt f rest .busy))
        ∧ (¬claimed → ¬busy → ∃ u : State, exec (.setLine dt) s
                = .next (u.replied f [BitVec.ofNat 8 l.val, BitVec.ofNat 8 cfg.dir.code,
                    BitVec.ofNat 8 (u.line l).cfg.output.code, BitVec.ofNat 8 cfg.safe.code,
                    BitVec.ofNat 8 (boolCode cfg.pullUp), BitVec.ofNat 8 cfg.active.code, BitVec.ofNat 8 cfg.g,
                    BitVec.ofNat 8 cfg.fn.code, BitVec.ofNat 8 new.effDir.code, BitVec.ofNat 8 (boolCode new.effPull),
                    BitVec.ofNat 8 old.accepted.code])
            ∧ (u.line l).accepted = old.accepted ∧ (u.line l).c = new.c
            ∧ (u.line l).cfg = { cfg with output := (u.line l).cfg.output }
            ∧ (∀ fn, fn.single = true → u.lmx.holderOf fn = if cfg.fn = fn then some l
                else if s.lmx.holderOf fn = some l then none else s.lmx.holderOf fn)
            ∧ ((old.cfg.fn = .home ∨ cfg.fn = .home) → old.cfg.fn ≠ cfg.fn → u.ltr.trust = .unsynced)
            ∧ ((old.cfg.fn = .home ↔ cfg.fn = .home) → u.ltr = s.ltr)
            ∧ (s.lmx.stopHolds = true ∨ cfg.fn ≠ .stop ∨ old.accepted ≠ cfg.active →
                u.line l = new ∧ (∀ m : LineNo, m ≠ l → u.line m = s.line m) ∧ u.ttb.run = s.ttb.run)
            ∧ (s.lmx.stopHolds = false → cfg.fn = .stop → old.accepted = cfg.active → u.ttb.run = .halted .stop)))
    ∧ ∀ (dt : Time) (s : State) (f : Frame) (rest : List Frame), s.Serves f rest → f.kind = 0x0A#8 → f.payload.length = 8 →
      48 ≤ field f.payload 0 1 ∨ 2 ≤ field f.payload 1 1 ∨ 2 ≤ field f.payload 2 1 ∨ 2 ≤ field f.payload 3 1
        ∨ 2 ≤ field f.payload 4 1 ∨ 2 ≤ field f.payload 5 1 ∨ 7 ≤ field f.payload 7 1 →
      exec (.setLine dt) s = .next (s.refusal dt f rest .badValue)

/-- ReadAnalog hands its inputs, the first 1 to 4 codes of its payload, over as the pending reads and waits with its tag, without a
reply yet; a count of 0 or above 4, or an input among them that is none, is refused (R117, R182, R183). -/
def Obligations.ReadAnalogWaits : Prop :=
  ∀ (dt : Time) (s : State) (f : Frame) (rest : List Frame) (n a b c d : Byte), s.Serves f rest → f.kind = 0x0C#8 →
    f.payload = [n, a, b, c, d] →
    let codes := ([a, b, c, d].take n.toNat).map BitVec.toNat
    (n.toNat = 0 ∨ 4 < n.toNat ∨ (∃ x ∈ codes, 20 ≤ x) → exec (.readAnalog dt) s = .next (s.refusal dt f rest .badValue))
      ∧ ∀ inputs : List AnalogInput, 1 ≤ n.toNat → n.toNat ≤ 4 →
        inputs.map (fun x => match x with | .sense i => i.val | .general j => 16 + j.val) = codes →
        exec (.readAnalog dt) s
          = .next (((s.serving dt rest).setTru { s.tru with pendingReads := inputs, readsJoined := false,
                                                            readResults := [] }).setHlk
              { s.hlk with queue := rest, handler := .waiting f.tag }).kick

/-- LoadTrial checks its values, then that a slot is EMPTY, that no occupied slot carries the number, that the chute is in zone and
the record defined, that the record fits the loop, that its eye line holds EYE, that a COIL trial is traced, and that a DRIVE trial
has its lines; accepted, the trial takes the lowest EMPTY slot and the load counter's value, and the counter goes on (R54 to R57).
A trial that any condition of R61 keeps from arming stays LOADED with the first one's hold reason, HALTED before all. The scan takes
the LOADED trials in load order, each armed or given its hold reason with the state as it stands at its turn (R60). With its resources free it arms at once: a CHUTE trial with its fire
entry, a COIL trial with its profile handed over, an EYE trial with its observation, a DRIVE trial with its handover check (R59, R64,
R81, R100, R120, R136, R154). DEDUCED: the payload's layout (log entry 17), the reply's presence byte (log entry 12), and that it
shows the state after the scan (log entry 14). That an undefined record counts as SETUP is the model's choice (log entry 31). -/
def Obligations.LoadTrialTakesASlot : Prop :=
  ∀ (dt : Time) (s : State) (f : Frame) (rest : List Frame), s.Serves f rest → f.kind = 0x0D#8 → f.payload.length = 13 →
    let number := field f.payload 0 2
    (targetOf f.payload s.ltr.N = none → exec (.loadTrial dt) s = .next (s.refusal dt f rest .badValue))
      ∧ ∀ t : Target, targetOf f.payload s.ltr.N = some t →
        ((∀ k, s.trial k ≠ none) → exec (.loadTrial dt) s = .next (s.refusal dt f rest .tableFull))
          ∧ ∀ k : Slot, s.trial k = none → (∀ j, j < k → s.trial j ≠ none) →
            ((∃ j u, s.trial j = some u ∧ u.number = number) →
                exec (.loadTrial dt) s = .next (s.refusal dt f rest .duplicate))
              ∧ ((∀ j u, s.trial j = some u → u.number ≠ number) →
                (∀ c, t.chute? = some c → s.zmr.channelOf c = none →
                    exec (.loadTrial dt) s = .next (s.refusal dt f rest .notInZone))
                  ∧ (∀ c, t.chute? = some c → s.zmr.channelOf c ≠ none → s.zmr.chuteRecord c = none →
                      exec (.loadTrial dt) s = .next (s.refusal dt f rest .noRecord))
                  ∧ (∀ r, t = .eye r → s.zmr.eyes[r] = none → exec (.loadTrial dt) s = .next (s.refusal dt f rest .noRecord))
                  ∧ (∀ r st v d, t = .drive r st v d → s.zmr.drives[r] = none →
                      exec (.loadTrial dt) s = .next (s.refusal dt f rest .noRecord))
                  ∧ (∀ c tray n r, t = .chute c tray → s.zmr.chuteRecord c = some (n, r) →
                      (s.ltr.N * s.ltr.P ≤ r.S → exec (.loadTrial dt) s = .next (s.refusal dt f rest .badValue))
                        ∧ ∀ l, r.S < s.ltr.N * s.ltr.P → r.eyeLine = some l → (s.line l).cfg.fn ≠ .eye →
                          exec (.loadTrial dt) s = .next (s.refusal dt f rest .noEye))
                  ∧ (∀ m x, t = .eye m → s.zmr.eyes[m] = some x →
                      let fits := x.X < s.ltr.N * s.ltr.P ∧ x.tol ≤ s.ltr.P / 2
                        ∧ ∀ e, x.expected = some e → e ≤ s.ltr.P ∧ x.lenTol ≤ s.ltr.P
                      (¬fits → exec (.loadTrial dt) s = .next (s.refusal dt f rest .badValue))
                        ∧ (fits → (s.line x.line).cfg.fn ≠ .eye → exec (.loadTrial dt) s = .next (s.refusal dt f rest .noEye)))
                  ∧ (∀ c n r, t = .coil c → s.zmr.chuteRecord c = some (n, r) → r.traceOn = false →
                      exec (.loadTrial dt) s = .next (s.refusal dt f rest .noTrace))
                  ∧ (∀ r st v d x, t = .drive r st v d → s.zmr.drives[r] = some x →
                      s.lmx.requestHolder = none ∨ s.lmx.busyHolder = none →
                      exec (.loadTrial dt) s = .next (s.refusal dt f rest .noLinkLines))
                  ∧ (s.loadRefusal number t = none →
                      ∃ (u : State) (t' : Trial) (p : List Byte), exec (.loadTrial dt) s = .next (u.replied f p)
                        ∧ u.trial k = some t' ∧ t'.number = number ∧ t'.target = t ∧ t'.loadOrder = s.ttb.loadCounter
                        ∧ t'.ending = .open_ ∧ (t'.state = .loaded ↔ t'.hold ≠ none)
                        ∧ u.ttb.loadCounter = s.ttb.loadCounter + 1
                        ∧ p = [BitVec.ofNat 8 (boolCode t'.hold.isSome), BitVec.ofNat 8 k.val]
                            ++ beBytes 4 s.ttb.loadCounter.toNat
                            ++ [BitVec.ofNat 8 t'.state.code, BitVec.ofNat 8 ((t'.hold.map HoldReason.code).getD 0)])
                  ∧ (s.loadRefusal number t = none →
                      let fresh : Trial := { number := number, target := t, state := .loaded, loadOrder := s.ttb.loadCounter,
                                             hold := none, tArm := none, held := .nothing, ending := .open_ }
                      let loaded := ((s.serving dt rest).setTtb { s.ttb with
                        loadCounter := s.ttb.loadCounter + 1 }).setTrial k (some fresh)
                      (∃ (u : State) (p : List Byte) (ks : List Slot), exec (.loadTrial dt) s = .next (u.replied f p) ∧ ks.Nodup
                          ∧ (∀ j, j ∈ ks ↔ ∃ v, loaded.trial j = some v ∧ v.state = .loaded)
                          ∧ ks.Pairwise (fun i j => ∀ a b, loaded.trial i = some a → loaded.trial j = some b →
                              (loaded.ttb.loadCounter - b.loadOrder).toNat ≤ (loaded.ttb.loadCounter - a.loadOrder).toNat)
                          ∧ ScansInto [] ks loaded u)
                        ∧ ∀ r : HoldReason, s.anyLoaded = false → s.HeldFor [] fresh r →
                          exec (.loadTrial dt) s
                            = .next ((loaded.setTrial k (some { fresh with hold := some r })).replied f
                                (1#8 :: BitVec.ofNat 8 k.val :: (beBytes 4 s.ttb.loadCounter.toNat ++ [0#8, BitVec.ofNat 8 r.code]))))
                  ∧ (∀ c n r cause, t = .coil c → s.zmr.chuteRecord c = some (n, r) → r.traceOn = true →
                      s.ttb.run = .halted cause →
                      ∃ (u : State), exec (.loadTrial dt) s
                          = .next (u.replied f (1#8 :: BitVec.ofNat 8 k.val :: (beBytes 4 s.ttb.loadCounter.toNat ++ [0#8, 0#8])))
                        ∧ u.trial k = some { number := number, target := t, state := .loaded,
                                             loadOrder := s.ttb.loadCounter, hold := some .halted, tArm := none,
                                             held := .nothing, ending := .open_ }
                        ∧ u.ttb.loadCounter = s.ttb.loadCounter + 1 ∧ u.ttb.run = s.ttb.run
                        ∧ u.kept = ((s.serving dt rest).setTtb u.ttb).kept ∧ u.vlg = s.vlg ∧ u.cdu = s.cdu)
                  ∧ (∀ c n r, t = .coil c → s.zmr.chuteRecord c = some (n, r) → r.traceOn = true →
                      s.ttb.run = .running → s.anyLoaded = false → (s.channel n).state ≠ .fault →
                      s.ttb.channelHolder[n] = none → s.vlg.records.length + s.vlg.reserved < 128 →
                      s.tru.buffers[(0 : Buf)] = none →
                      ∃ (u : State), exec (.loadTrial dt) s
                          = .next (u.replied f (0#8 :: BitVec.ofNat 8 k.val :: (beBytes 4 s.ttb.loadCounter.toNat ++ [2#8, 0#8])))
                        ∧ (∃ held, u.trial k = some { number := number, target := t, state := .active,
                                                      loadOrder := s.ttb.loadCounter, hold := none,
                                                      tArm := some (s.T + dt), held := held, ending := .open_ }
                            ∧ held.channel = some n ∧ held.line = none ∧ held.link = false ∧ held.buffer = some 0
                            ∧ held.reservation = true)
                        ∧ u.ttb.channelHolder[n] = some k ∧ u.vlg = { s.vlg with reserved := s.vlg.reserved + 1 }
                        ∧ (u.channel n).startPending = true ∧ (u.channel n).profile = some r.profile
                        ∧ (u.channel n).owner = some { slot := k, number := number }
                        ∧ (∀ m : Chan, m ≠ n → u.channel m = s.channel m)
                        ∧ ∃ tr, u.tru.buffers[(0 : Buf)] = some tr ∧ tr.number = number ∧ tr.channel = n
                          ∧ tr.state = .filling ∧ tr.samples = [] ∧ tr.fields = r.trace ∧ tr.grant = s.tru.grantCounter)
                  ∧ (s.loadRefusal number t = none → s.ttb.run = .running → s.anyLoaded = false →
                      s.vlg.records.length + s.vlg.reserved < 128 →
                      let reply := fun (u : State) (state : Byte) =>
                        u.replied f (0#8 :: BitVec.ofNat 8 k.val :: (beBytes 4 s.ttb.loadCounter.toNat ++ [state, 0#8]))
                      let begun := fun (u : State) (st : TrialState) (held : Held) =>
                        u.trial k = some { number := number, target := t, state := st, loadOrder := s.ttb.loadCounter, hold := none,
                                           tArm := some (s.T + dt), held := held, ending := .open_ }
                          ∧ held.reservation = true ∧ u.vlg = { s.vlg with reserved := s.vlg.reserved + 1 }
                          ∧ u.kept = ((s.serving dt rest).setTtb { s.ttb with loadCounter := s.ttb.loadCounter + 1 }).kept
                      (∀ c tray n r, t = .chute c tray → s.zmr.chuteRecord c = some (n, r) → s.ltr.trust = .synced →
                          (s.channel n).state ≠ .fault → s.ttb.channelHolder[n] = none →
                          (∀ l, r.eyeLine = some l → s.ttb.lineHolder[l] = none) →
                          (r.traceOn = true → s.tru.buffers[(0 : Buf)] = none) →
                          ∃ (u : State) (held : Held), exec (.loadTrial dt) s = .next (reply u 1#8) ∧ begun u .armed held
                            ∧ held.channel = some n ∧ held.line = r.eyeLine ∧ held.link = false
                            ∧ held.buffer = (if r.traceOn then some 0 else none)
                            ∧ u.ttb.channelHolder[n] = some k ∧ (∀ l, r.eyeLine = some l → u.ttb.lineHolder[l] = some k)
                            ∧ u.fsc = s.fsc ++ [s.ltr.newEntry k number n r.S r.tau tray] ∧ u.cdu = s.cdu ∧ u.obu = s.obu
                            ∧ u.dlk = s.dlk ∧ (r.traceOn = false → u.tru = s.tru)
                            ∧ (r.traceOn = true → ∃ tr, u.tru.buffers[(0 : Buf)] = some tr ∧ tr.number = number
                                ∧ tr.channel = n ∧ tr.state = .filling ∧ tr.samples = [] ∧ tr.tb = none ∧ tr.fields = r.trace))
                        ∧ (∀ x r, t = .eye x → s.zmr.eyes[x] = some r → s.ltr.trust = .synced → s.ttb.lineHolder[r.line] = none →
                            s.ltr.H < s.ltr.N * s.ltr.P →
                            let q := s.ltr.nextPass r.X (s.ltr.P / 2)
                            ∃ (u : State) (held : Held), exec (.loadTrial dt) s = .next (reply u 2#8) ∧ begun u .active held
                              ∧ held.channel = none ∧ held.line = some r.line ∧ held.link = false ∧ held.buffer = none
                              ∧ u.ttb.lineHolder[r.line] = some k
                              ∧ u.obu.observers[r.line] = some { slot := k, number := number }
                              ∧ (∃ e, u.obu.eyes[k] = some e ∧ e.line = r.line ∧ e.X = r.X ∧ e.tol = r.tol
                                ∧ e.expected = r.expected ∧ e.lenTol = r.lenTol ∧ e.passes = r.passes
                                ∧ (e.tray, e.passPoint) = q ∧ e.u = 0
                                ∧ e.uE0 = ((q.2 : Int) - s.ltr.H) % (s.ltr.N * s.ltr.P : Nat)
                                ∧ e.uEnd = e.uE0 + ((r.passes - 1) * s.ltr.P + s.ltr.P / 2 : Nat)
                                ∧ e.hitPasses = [] ∧ e.closed = 0 ∧ e.lastLead = none
                                ∧ (e.hits = 0 ∧ e.misses = 0 ∧ e.extras = 0 ∧ e.strays = 0 ∧ e.lenFailures = 0)
                                ∧ (e.dMin = none ∧ e.dMax = none ∧ e.dSum = 0 ∧ e.lenMin = none ∧ e.lenMax = none))
                              ∧ u.fsc = s.fsc ∧ u.cdu = s.cdu ∧ u.tru = s.tru ∧ u.dlk = s.dlk)
                        ∧ ∀ x st v d r, t = .drive x st v d → s.zmr.drives[x] = some r → s.dlk.state = .idle →
                          ∃ (u : State) (held : Held), exec (.loadTrial dt) s = .next (reply u 2#8) ∧ begun u .active held
                            ∧ held.channel = none ∧ held.line = none ∧ held.link = true ∧ held.buffer = none
                            ∧ u.ttb.linkHolder = some k ∧ u.dlk.state = .checking ∧ u.lmx.asserted = true
                            ∧ u.dlk.owner = some { slot := k, number := number }
                            ∧ u.dlk.latch = some { index := x, record := r, step := st, vExp := v, duration := d }
                            ∧ u.dlk.deadline = some (s.T + dt + BitVec.ofNat 32 (1000 * r.checkMs))
                            ∧ (u.dlk.busySeen = true ↔ ∃ l, s.lmx.busyHolder = some l ∧ (s.line l).accepted = (s.line l).cfg.active)
                            ∧ u.dlk.cur = none ∧ u.dlk.next = none ∧ u.dlk.plan = [] ∧ u.dlk.measurement = none
                            ∧ u.fsc = s.fsc ∧ u.cdu = s.cdu ∧ u.tru = s.tru ∧ u.obu = s.obu))

/-- CancelTrial of a number that no occupied slot carries is refused; a LOADED trial is removed without a verdict; an ARMED one ends
with its verdict CANCELLED at once and its fire entry gone, and an ACTIVE EYE trial ends at once (R66 to R68, R185). An ACTIVE CHUTE
or COIL trial stops its watch and completes its trace CANCELLED: a start still pending is WITHDRAWN and the verdict written at once,
without a COIL part; a profile in pull-in or hold is brought back and a later phase goes on, with the verdict to follow; and a CHUTE
trial whose coil done is in has its verdict at once (R68, R104, R110, R121, R134). An ACTIVE DRIVE trial ends at once while CHECKING,
begins the release of the base setpoint while OWNED, and leaves the plan as it stands while RELEASING (R163). One that is already
ending is left as it is. -/
def Obligations.CancelTrialEndsTheTrial : Prop :=
  ∀ (dt : Time) (s : State) (f : Frame) (rest : List Frame), s.Serves f rest → f.kind = 0x0E#8 → f.payload.length = 2 →
    let number := field f.payload 0 2
    ((∀ k t, s.trial k = some t → t.number ≠ number) → exec (.cancelTrial dt) s = .next (s.refusal dt f rest .noTrial))
      ∧ ∀ (k : Slot) (t : Trial), s.trial k = some t → t.number = number →
        (∀ j u, s.trial j = some u → u.number = number → j = k) →
        (t.state = .loaded → ∃ u : State, exec (.cancelTrial dt) s = .next (u.replied f [0#8])
            ∧ u.trial k = none ∧ u.vlg.records = s.vlg.records ∧ u.vlg.nextSerial = s.vlg.nextSerial
            ∧ u.kept = (s.serving dt rest).kept)
          ∧ (t.state = .armed → t.ending = .open_ → ∃ (u : State) (r : Verdict),
              exec (.cancelTrial dt) s = .next (u.replied f [1#8])
                ∧ u.vlg.records = s.vlg.records ++ [r] ∧ r.number = number ∧ r.outcome = .cancelled ∧ r.reason = none
                ∧ r.serial = s.vlg.nextSerial ∧ u.hlk.flags.log = true ∧ u.kept = (s.serving dt rest).kept
                ∧ (s.anyLoaded = false → u.trial k = none ∧ u.fsc = s.fsc.filter (fun e => decide (e.slot ≠ k))))
          ∧ (∀ c : Chan, t.state = .active → t.target.kind = .coil → t.ending = .open_ → t.held.channel = some c →
              (s.channel c).state = .pullIn ∨ (s.channel c).state = .hold → (s.channel c).startPending = false →
              s.obu.watches[k] = none → s.obu.coils[k] = none → s.tru.fillingFor number = none →
              exec (.cancelTrial dt) s
                = .next ((((s.serving dt rest).setTrial k (some { t with ending := .cancelled })).setChannel c
                    { s.channel c with returnRequested := true }).replied f [2#8]))
          ∧ (∀ e : EyeObservation, t.state = .active → t.target.kind = .eye → t.ending = .open_ → s.obu.eyes[k] = some e →
              ∃ (u : State) (r : Verdict), exec (.cancelTrial dt) s = .next (u.replied f [1#8])
                ∧ u.vlg.records = s.vlg.records ++ [r] ∧ r.number = number ∧ r.outcome = .cancelled ∧ u.trial k = none
                ∧ r.sensor ≠ none)
          ∧ (∀ c : Chan, t.state = .active → t.target.kind = .chute ∨ t.target.kind = .coil → t.ending = .open_ →
              t.held.channel = some c → s.anyLoaded = false →
              let stopped := fun (w : Watch) =>
                if w.state = .ended then w
                else { w with state := .ended, stillBlocked := w.stillBlocked || decide (w.state = .arrived),
                              dwell := if w.state = .arrived then none else w.dwell }
              let traces := fun (u : State) =>
                (s.tru.fillingFor number = none → ∀ b : Buf, u.tru.buffers[b] = s.tru.buffers[b])
                  ∧ ∀ (b : Buf) (tr : Trace), s.tru.fillingFor number = some b → s.tru.buffers[b] = some tr →
                    u.tru.buffers[b] = some { tr with state := .completeUnread,
                                                      completion := some (.cancelled, s.tru.completionCounter) }
                      ∧ u.tru.completionCounter = s.tru.completionCounter + 1
              let written := fun (u : State) (r : Verdict) =>
                u.vlg.records = s.vlg.records ++ [r] ∧ r.number = number ∧ r.serial = s.vlg.nextSerial ∧ r.kind = t.target.kind
                  ∧ r.outcome = .cancelled ∧ r.reason = none ∧ r.fire = (s.obu.watches[k]).map (fun w => w.fire.part)
                  ∧ r.item = (s.obu.watches[k]).map (fun w =>
                      { arrival := w.arrival, dwell := (stopped w).dwell, extra := w.extra : ItemPart })
                  ∧ u.trial k = none ∧ u.obu.watches[k] = none
              ((s.channel c).startPending = false → (s.channel c).state.running = true → s.obu.coils[k] = none →
                  ∃ u : State, exec (.cancelTrial dt) s = .next (u.replied f [2#8])
                    ∧ u.trial k = some { t with ending := .cancelled } ∧ u.vlg = s.vlg ∧ u.fsc = s.fsc ∧ u.dlk = s.dlk
                    ∧ u.kept = (s.serving dt rest).kept
                    ∧ u.channel c = { s.channel c with
                        returnRequested := (s.channel c).returnRequested
                          || decide ((s.channel c).state = .pullIn ∨ (s.channel c).state = .hold) }
                    ∧ (∀ m : Chan, m ≠ c → u.channel m = s.channel m) ∧ traces u
                    ∧ ∀ w, s.obu.watches[k] = some w → u.obu.watches[k] = some (stopped w)
                      ∧ ∀ l, w.line = some l → w.state ≠ .ended → u.obu.observers[l] = none)
                ∧ ((s.channel c).startPending = true → (s.channel c).owner = some { slot := k, number := number } →
                    (t.target.kind = .chute → s.obu.watches[k] ≠ none) →
                    ∃ (u : State) (r : Verdict), exec (.cancelTrial dt) s = .next (u.replied f [1#8]) ∧ written u r
                      ∧ r.coil = none ∧ u.kept = (s.serving dt rest).kept ∧ traces u
                      ∧ (u.channel c).startPending = false ∧ (u.channel c).profile = none ∧ (u.channel c).owner = none
                      ∧ (u.channel c).state = (s.channel c).state ∧ ∀ m : Chan, m ≠ c → u.channel m = s.channel m)
                ∧ ∀ x : CoilReport, t.target.kind = .chute → s.obu.watches[k] ≠ none → s.obu.coils[k] = some x →
                  (s.channel c).startPending = false →
                  ∃ (u : State) (r : Verdict), exec (.cancelTrial dt) s = .next (u.replied f [1#8]) ∧ written u r
                    ∧ r.coil = x.part ∧ u.kept = (s.serving dt rest).kept)
          ∧ (t.state = .active → t.target.kind = .drive → t.ending = .open_ →
              (s.dlk.state = .checking → s.dlk.owner = some { slot := k, number := number } →
                  ∃ (u : State) (r : Verdict), exec (.cancelTrial dt) s = .next (u.replied f [1#8])
                    ∧ u.vlg.records = s.vlg.records ++ [r] ∧ r.number = number ∧ r.kind = .drive ∧ r.outcome = .cancelled
                    ∧ r.reason = none ∧ u.trial k = none ∧ u.kept = (s.serving dt rest).kept
                    ∧ (s.dlk.measurement = none → r.drive = none)
                    ∧ (s.anyLoaded = false → u.dlk.state = .idle ∧ u.dlk.cur = none ∧ u.lmx.asserted = false))
                ∧ (s.dlk.state = .owned →
                    ∃ d : Dlk, exec (.cancelTrial dt) s
                        = .next ((((s.serving dt rest).setTrial k (some { t with ending := .cancelled })).setDlk d).replied f [2#8])
                      ∧ s.dlk.ReleasesWith d (s.T + dt) .base)
                ∧ (s.dlk.state = .releasing →
                    exec (.cancelTrial dt) s
                      = .next (((s.serving dt rest).setTrial k (some { t with ending := .cancelled })).replied f [2#8])))
          ∧ (t.state = .active → t.ending ≠ .open_ →
              exec (.cancelTrial dt) s = .next ((s.serving dt rest).replied f [3#8]))

/-- CancelAll cancels every occupied slot and replies with the counts of trials removed, written and left ending, which make up all
of them; every trial that remains after its cancels is ACTIVE with its end set. Where the blocks' records and the table are tied,
the second count is that of the verdicts it adds, CANCELLED and in load order, one for each ARMED or ACTIVE trial that is gone, and
the third that of the trials that remain (R69). -/
def Obligations.CancelAllCountsEveryTrial : Prop :=
  ∀ (dt : Time) (s : State) (f : Frame) (rest : List Frame), s.Serves f rest → f.kind = 0x0F#8 → f.payload = [] →
    ∃ (u : State) (removed written ending : Nat),
      exec (.cancelAll dt) s
          = .next (u.replied f [BitVec.ofNat 8 removed, BitVec.ofNat 8 written, BitVec.ofNat 8 ending])
        ∧ removed = s.ttb.countState .loaded
        ∧ removed + written + ending = allSlots.countP (fun k => (s.trial k).isSome)
        ∧ u.kept = (s.serving dt rest).kept
        ∧ (∀ k t, u.trial k = some t → t.state = .active ∧ t.ending ≠ .open_ ∧ ∃ t0, s.trial k = some t0 ∧ t0.number = t.number)
        ∧ (s.Tied → s.ttb.Sound →
            ending = allSlots.countP (fun k => (u.trial k).isSome)
              ∧ ∃ new, u.vlg.records = s.vlg.records ++ new ∧ new.length = written
                ∧ new.map Verdict.number = s.numbersOf (fun k t => t.begun && (u.trial k).isNone)
                ∧ ∀ r ∈ new, ∃ k t, s.trial k = some t ∧ t.number = r.number ∧ r.kind = t.target.kind ∧ u.trial k = none
                  ∧ (t.ending = .open_ → r.outcome = .cancelled ∧ r.reason = none))

/-- ReadLog takes records from the head, oldest first, as many as the count, the ring and 237 payload bytes allow, and never fewer;
the rest of the ring stays, with every serial and the reservations as they are (R172 to R174). A record's bytes, as many as its
size, are laid out field by field as R193 gives them. -/
def Obligations.ReadLogRemovesFromTheHead : Prop :=
  (∀ r : Verdict, r.LaidOut r.bytes ∧ r.bytes.length = r.size
      ∧ r.size = 16 + 13 * boolCode r.fire.isSome + 8 * boolCode r.item.isSome + 10 * boolCode r.coil.isSome
          + 19 * boolCode r.sensor.isSome + 15 * boolCode r.drive.isSome)
    ∧ ∀ (dt : Time) (s : State) (f : Frame) (rest : List Frame) (count : Byte), s.Serves f rest → f.kind = 0x11#8 →
    f.payload = [count] →
    (count.toNat = 0 ∨ 8 < count.toNat → exec (.readLog dt) s = .next (s.refusal dt f rest .badValue))
      ∧ (1 ≤ count.toNat → count.toNat ≤ 8 →
          ∃ (u : State) (n : Nat),
            exec (.readLog dt) s
                = .next (u.replied f (BitVec.ofNat 8 n :: BitVec.ofNat 8 (s.vlg.records.length - n)
                    :: BitVec.ofNat 8 s.vlg.reserved :: (s.vlg.records.take n).flatMap Verdict.bytes))
              ∧ n ≤ count.toNat ∧ n ≤ s.vlg.records.length
              ∧ ((s.vlg.records.take n).map Verdict.size).sum ≤ 237
              ∧ (n < count.toNat → n < s.vlg.records.length → 237 < ((s.vlg.records.take (n + 1)).map Verdict.size).sum)
              ∧ u.vlg.records = s.vlg.records.drop n ∧ u.vlg.nextSerial = s.vlg.nextSerial
              ∧ u.kept = (s.serving dt rest).kept
              ∧ (s.anyLoaded = false → u = (s.serving dt rest).setVlg { s.vlg with records := s.vlg.records.drop n }))

/-- ReadTrace answers from the buffer granted latest for its trial number, or GONE; it returns the samples from the offset on, and
marks a completed trace READ when they reach its end (R122, R123). The reply carries every field of R123: the presence byte at its
front is DEDUCED (log entry 12), and that it shows the state before the reply itself makes the trace READ is the model's choice (log
entry 14), and so is that an offset equal to the length, which returns no sample, makes a trace with samples READ (log entry 40). The
codes of a trace's state and cause are numbered in the orders of R119 and R121 (R185). -/
def Obligations.ReadTraceReturnsSamples : Prop :=
  (Coded TraceState.code 0 [.filling, .completeUnread, .read] ∧ Coded TraceCause.code 0 [.full, .ended, .cancelled, .halted, .removed])
    ∧ ∀ (dt : Time) (s : State) (f : Frame) (rest : List Frame), s.Serves f rest → f.kind = 0x12#8 → f.payload.length = 5 →
    let number := field f.payload 0 2
    let offset := field f.payload 2 2
    let count := field f.payload 4 1
    let legal := offset ≤ 255 ∧ 1 ≤ count ∧ count ≤ 100
    (¬legal → exec (.readTrace dt) s = .next (s.refusal dt f rest .badValue))
      ∧ (legal → (∀ (b : Buf) tr, s.tru.buffers[b] = some tr → tr.number ≠ number) →
          exec (.readTrace dt) s = .next (s.refusal dt f rest .gone))
      ∧ ∀ (b : Buf) (tr : Trace), legal → s.tru.buffers[b] = some tr → tr.number = number →
        (∀ (c : Buf) tr', s.tru.buffers[c] = some tr' → tr'.number = number →
            c ≠ b → (s.tru.grantCounter - tr.grant).toNat < (s.tru.grantCounter - tr'.grant).toNat) →
        let samples := (tr.samples.drop offset).take count
        let last := tr.state = .completeUnread ∧ offset + samples.length = tr.samples.length
        ∃ p, exec (.readTrace dt) s
            = .next (((s.serving dt rest).setTru { s.tru with
                buffers := s.tru.buffers.set b (some (if last then { tr with state := .read } else tr)) }).replied f p)
          ∧ p.length = 22 + 2 * samples.length
          ∧ p.drop 22 = samples.flatMap (fun x => [BitVec.ofNat 8 (x.toNat / 256), BitVec.ofNat 8 x.toNat])
          ∧ field p 1 1 = b.val ∧ field p 2 2 = number ∧ field p 4 1 = tr.channel.val
          ∧ field p 0 1 = boolCode tr.tb.isSome + 2 * boolCode tr.completion.isSome
          ∧ (tr.fields.m < 256 → field p 5 1 = tr.fields.m)
          ∧ field p 6 4 = (match tr.tb with | some t => t.toNat | none => 0)
          ∧ field p 10 1 = tr.state.code ∧ field p 11 1 = (match tr.completion with | some x => x.1.code | none => 0)
          ∧ (tr.samples.length < 65536 → field p 12 2 = tr.samples.length)
          ∧ (tr.nPull < 65536 → field p 14 2 = tr.nPull) ∧ (tr.nHold < 65536 → field p 16 2 = tr.nHold)
          ∧ (tr.nReturn < 65536 → field p 18 2 = tr.nReturn)
          ∧ field p 20 1 = offset ∧ field p 21 1 = samples.length

/-- Resume is refused while the STOP condition holds; otherwise a HALTED controller is RUNNING again, and a RUNNING one is not
changed (R73). -/
def Obligations.ResumeRuns : Prop :=
  ∀ (dt : Time) (s : State) (f : Frame) (rest : List Frame), s.Serves f rest → f.kind = 0x14#8 → f.payload = [] →
    let stop := ∃ l, s.lmx.stopHolder = some l ∧ (s.line l).accepted = (s.line l).cfg.active
    (stop → exec (.resume dt) s = .next (s.refusal dt f rest .stopActive))
      ∧ (¬stop → s.ttb.run = .running → exec (.resume dt) s = .next ((s.serving dt rest).replied f [0#8]))
      ∧ (∀ c, ¬stop → s.ttb.run = .halted c →
          ∃ u : State, exec (.resume dt) s = .next (u.replied f [0#8]) ∧ u.ttb.run = .running
            ∧ u.kept = ((s.serving dt rest).setTtb { s.ttb with run := .running }).kept ∧ u.vlg.records = s.vlg.records
            ∧ (s.anyLoaded = false → u = (s.serving dt rest).setTtb { s.ttb with run := .running }))

/-- ClearChannel takes a channel out of FAULT into IDLE with its fault record cleared and the guard as it stands, and replies with the
record; a channel that is not in FAULT, or no channel, is refused. LinkRestart takes the link out of FAULT into IDLE, is accepted
with no change in IDLE, and is refused with BUSY while the link holds or seeks a drive (R103, R109, R165). That its reply shows IDLE,
the state before the scan that follows, is DEDUCED (log entry 14). The record's phase is coded in the order of R97 (R185). -/
def Obligations.ClearChannelAndLinkRestartLeaveFault : Prop :=
  Coded ChanState.code 0 [.idle, .pullIn, .hold, .gap1, .ret, .gap2, .recover, .fault]
    ∧ (∀ (dt : Time) (s : State) (f : Frame) (rest : List Frame) (n : Byte), s.Serves f rest → f.kind = 0x15#8 → f.payload = [n] →
      (16 ≤ n.toNat → exec (.clearChannel dt) s = .next (s.refusal dt f rest .notFaulted))
        ∧ ∀ c : Chan, n.toNat = c.val →
          ((s.channel c).state ≠ .fault → exec (.clearChannel dt) s = .next (s.refusal dt f rest .notFaulted))
            ∧ ∀ x : FaultRecord, (s.channel c).state = .fault → (s.channel c).fault = some x →
              ∃ u : State, exec (.clearChannel dt) s
                  = .next (u.replied f (n :: BitVec.ofNat 8 x.phase.code
                      :: (beBytes 3 x.p ++ beBytes 2 x.value.toNat ++ beBytes 4 x.t.toNat)))
                ∧ (u.channel c).state = .idle ∧ (u.channel c).fault = none ∧ (u.channel c).guard = (s.channel c).guard
                ∧ u.kept = (s.serving dt rest).kept
                ∧ (s.anyLoaded = false → u = (s.serving dt rest).setChannel c
                    { s.channel c with state := .idle, fault := none, profile := none }))
    ∧ ∀ (dt : Time) (s : State) (f : Frame) (rest : List Frame), s.Serves f rest → f.kind = 0x16#8 → f.payload = [] →
      (s.dlk.state = .checking ∨ s.dlk.state = .owned ∨ s.dlk.state = .releasing →
          exec (.linkRestart dt) s = .next (s.refusal dt f rest .busy))
        ∧ (s.dlk.state = .idle → exec (.linkRestart dt) s = .next ((s.serving dt rest).replied f [0#8]))
        ∧ (s.dlk.state = .fault →
            ∃ u : State, exec (.linkRestart dt) s = .next (u.replied f [0#8]) ∧ u.kept = (s.serving dt rest).kept
              ∧ u.vlg.records = s.vlg.records ∧ u.dlk.state ≠ .fault
              ∧ (s.anyLoaded = false → u = (s.serving dt rest).setDlk { s.dlk with state := .idle }))

/-! ## Invariants -/

/-- The reset state meets every invariant below, and so does the state after a POWER reset with any straps. -/
def Obligations.InvariantsHoldAtReset : Prop :=
  ∀ (u : State) (b1 b0 : Level) (s : State), u = State.reset ∨ exec (.powerReset b1 b0) s = .next u →
    u.ltr.Sound ∧ u.lmx.Sound ∧ u.zmr.Sound ∧ u.ttb.Sound ∧ u.vlg.Serial ∧ u.Reserved ∧ u.Halted ∧ u.Requesting ∧ u.hlk.Bounded
      ∧ u.Tied ∧ u.Placed

/-- Every step keeps the geometry legal, H on the loop, and the tracker's counters in range (R1, R2, R5, R7 to R9, R12, R13). -/
def Obligations.TrackerStaysSound : Prop :=
  ∀ s t : State, s.ltr.Sound → step s = .next t → t.ltr.Sound

/-- Every step keeps the recorded holder of HOME, STOP, LINK_REQUEST and LINK_BUSY the one line that carries it, and LINK_REQUEST
asserted exactly while the link is in CHECKING, OWNED or RELEASING (R25, R150, R154). -/
def Obligations.LineHoldersAndRequestStaySound : Prop :=
  (∀ s t : State, s.lmx.Sound → step s = .next t → t.lmx.Sound)
    ∧ ∀ s t : State, s.Requesting → step s = .next t → t.Requesting

/-- Every step keeps the windows apart and every defined record in its range and on its own chute (R39, R40, R43 to R49). -/
def Obligations.RecordsStaySound : Prop :=
  ∀ s t : State, s.zmr.Sound → step s = .next t → t.zmr.Sound

/-- Every step keeps trial numbers distinct and every channel and line held by the trial recorded as its holder (R54, R59, R65), and
with it every record of another block tied to the trial that it works for: fire entries, watches, eye observations, coil results,
the link's owner and the channels' owners (R77, R92, R97, R110, R130, R136, R150). -/
def Obligations.TrialTableStaysSound : Prop :=
  (∀ s t : State, s.ttb.Sound → step s = .next t → t.ttb.Sound)
    ∧ ∀ s t : State, s.ttb.Sound → s.Tied → step s = .next t → t.Tied

/-- Every step keeps the log's serials consecutive, one reservation for each ARMED or ACTIVE trial, and records plus reservations at
most 128 (R169 to R171, R175). -/
def Obligations.LogStaysSerialAndReserved : Prop :=
  (∀ s t : State, s.vlg.Serial → step s = .next t → t.vlg.Serial)
    ∧ ∀ s t : State, s.Reserved → step s = .next t → t.Reserved

/-- While run control is HALTED the fire list is empty and every coil output is off: every step keeps this, the one that enters HALTED
among them (R71, R99, R105). -/
def Obligations.HaltedKeepsTheCoilsOff : Prop :=
  ∀ s t : State, s.Halted → step s = .next t →
    t.Halted ∧ ∀ cause, t.ttb.run = .halted cause →
      t.fsc = [] ∧ ∀ (c : Chan) (x : Nat), t.pullPin c x = false ∧ t.retPin c x = false

/-- Every step keeps at most 4 requests queued, 8 busy answers waiting and 245 bytes of a frame held (R178, R181). -/
def Obligations.HostLinkStaysBounded : Prop :=
  ∀ s t : State, s.hlk.Bounded → step s = .next t → t.hlk.Bounded
end

