-- ==== Sys2Proof/Laws/State.lean ====
section
/-! SUPPORT. One lemma per field per named update of the state. -/

namespace Sys2Proof.Machine

variable (s : State)

@[simp] theorem State.after_T (dt : Time) : (s.after dt).T = s.T + dt := rfl
@[simp] theorem State.after_ltr (dt : Time) : (s.after dt).ltr = s.ltr := rfl
@[simp] theorem State.after_lmx (dt : Time) : (s.after dt).lmx = s.lmx := rfl
@[simp] theorem State.after_zmr (dt : Time) : (s.after dt).zmr = s.zmr := rfl
@[simp] theorem State.after_ttb (dt : Time) : (s.after dt).ttb = s.ttb := rfl
@[simp] theorem State.after_fsc (dt : Time) : (s.after dt).fsc = s.fsc := rfl
@[simp] theorem State.after_cdu (dt : Time) : (s.after dt).cdu = s.cdu := rfl
@[simp] theorem State.after_tru (dt : Time) : (s.after dt).tru = s.tru := rfl
@[simp] theorem State.after_obu (dt : Time) : (s.after dt).obu = s.obu := rfl
@[simp] theorem State.after_dlk (dt : Time) : (s.after dt).dlk = s.dlk := rfl
@[simp] theorem State.after_vlg (dt : Time) : (s.after dt).vlg = s.vlg := rfl
@[simp] theorem State.after_hlk (dt : Time) : (s.after dt).hlk = s.hlk := rfl
@[simp] theorem State.after_choices (dt : Time) : (s.after dt).choices = s.choices := rfl
@[simp] theorem State.after_pending (dt : Time) : (s.after dt).pending = s.pending := rfl

@[simp] theorem State.choose_T : (s.choose).T = s.T := rfl
@[simp] theorem State.choose_ltr : (s.choose).ltr = s.ltr := rfl
@[simp] theorem State.choose_lmx : (s.choose).lmx = s.lmx := rfl
@[simp] theorem State.choose_zmr : (s.choose).zmr = s.zmr := rfl
@[simp] theorem State.choose_ttb : (s.choose).ttb = s.ttb := rfl
@[simp] theorem State.choose_fsc : (s.choose).fsc = s.fsc := rfl
@[simp] theorem State.choose_cdu : (s.choose).cdu = s.cdu := rfl
@[simp] theorem State.choose_tru : (s.choose).tru = s.tru := rfl
@[simp] theorem State.choose_obu : (s.choose).obu = s.obu := rfl
@[simp] theorem State.choose_dlk : (s.choose).dlk = s.dlk := rfl
@[simp] theorem State.choose_vlg : (s.choose).vlg = s.vlg := rfl
@[simp] theorem State.choose_hlk : (s.choose).hlk = s.hlk := rfl
@[simp] theorem State.choose_choices : (s.choose).choices = s.choices + 1 := rfl
@[simp] theorem State.choose_pending : (s.choose).pending = s.pending := rfl

@[simp] theorem State.setLtr_T (x : Ltr) : (s.setLtr x).T = s.T := rfl
@[simp] theorem State.setLtr_ltr (x : Ltr) : (s.setLtr x).ltr = x := rfl
@[simp] theorem State.setLtr_lmx (x : Ltr) : (s.setLtr x).lmx = s.lmx := rfl
@[simp] theorem State.setLtr_zmr (x : Ltr) : (s.setLtr x).zmr = s.zmr := rfl
@[simp] theorem State.setLtr_ttb (x : Ltr) : (s.setLtr x).ttb = s.ttb := rfl
@[simp] theorem State.setLtr_fsc (x : Ltr) : (s.setLtr x).fsc = s.fsc := rfl
@[simp] theorem State.setLtr_cdu (x : Ltr) : (s.setLtr x).cdu = s.cdu := rfl
@[simp] theorem State.setLtr_tru (x : Ltr) : (s.setLtr x).tru = s.tru := rfl
@[simp] theorem State.setLtr_obu (x : Ltr) : (s.setLtr x).obu = s.obu := rfl
@[simp] theorem State.setLtr_dlk (x : Ltr) : (s.setLtr x).dlk = s.dlk := rfl
@[simp] theorem State.setLtr_vlg (x : Ltr) : (s.setLtr x).vlg = s.vlg := rfl
@[simp] theorem State.setLtr_hlk (x : Ltr) : (s.setLtr x).hlk = s.hlk := rfl
@[simp] theorem State.setLtr_choices (x : Ltr) : (s.setLtr x).choices = s.choices := rfl
@[simp] theorem State.setLtr_pending (x : Ltr) : (s.setLtr x).pending = s.pending := rfl

@[simp] theorem State.setLmx_T (x : Lmx) : (s.setLmx x).T = s.T := rfl
@[simp] theorem State.setLmx_ltr (x : Lmx) : (s.setLmx x).ltr = s.ltr := rfl
@[simp] theorem State.setLmx_lmx (x : Lmx) : (s.setLmx x).lmx = x := rfl
@[simp] theorem State.setLmx_zmr (x : Lmx) : (s.setLmx x).zmr = s.zmr := rfl
@[simp] theorem State.setLmx_ttb (x : Lmx) : (s.setLmx x).ttb = s.ttb := rfl
@[simp] theorem State.setLmx_fsc (x : Lmx) : (s.setLmx x).fsc = s.fsc := rfl
@[simp] theorem State.setLmx_cdu (x : Lmx) : (s.setLmx x).cdu = s.cdu := rfl
@[simp] theorem State.setLmx_tru (x : Lmx) : (s.setLmx x).tru = s.tru := rfl
@[simp] theorem State.setLmx_obu (x : Lmx) : (s.setLmx x).obu = s.obu := rfl
@[simp] theorem State.setLmx_dlk (x : Lmx) : (s.setLmx x).dlk = s.dlk := rfl
@[simp] theorem State.setLmx_vlg (x : Lmx) : (s.setLmx x).vlg = s.vlg := rfl
@[simp] theorem State.setLmx_hlk (x : Lmx) : (s.setLmx x).hlk = s.hlk := rfl
@[simp] theorem State.setLmx_choices (x : Lmx) : (s.setLmx x).choices = s.choices := rfl
@[simp] theorem State.setLmx_pending (x : Lmx) : (s.setLmx x).pending = s.pending := rfl

@[simp] theorem State.setZmr_T (x : Zmr) : (s.setZmr x).T = s.T := rfl
@[simp] theorem State.setZmr_ltr (x : Zmr) : (s.setZmr x).ltr = s.ltr := rfl
@[simp] theorem State.setZmr_lmx (x : Zmr) : (s.setZmr x).lmx = s.lmx := rfl
@[simp] theorem State.setZmr_zmr (x : Zmr) : (s.setZmr x).zmr = x := rfl
@[simp] theorem State.setZmr_ttb (x : Zmr) : (s.setZmr x).ttb = s.ttb := rfl
@[simp] theorem State.setZmr_fsc (x : Zmr) : (s.setZmr x).fsc = s.fsc := rfl
@[simp] theorem State.setZmr_cdu (x : Zmr) : (s.setZmr x).cdu = s.cdu := rfl
@[simp] theorem State.setZmr_tru (x : Zmr) : (s.setZmr x).tru = s.tru := rfl
@[simp] theorem State.setZmr_obu (x : Zmr) : (s.setZmr x).obu = s.obu := rfl
@[simp] theorem State.setZmr_dlk (x : Zmr) : (s.setZmr x).dlk = s.dlk := rfl
@[simp] theorem State.setZmr_vlg (x : Zmr) : (s.setZmr x).vlg = s.vlg := rfl
@[simp] theorem State.setZmr_hlk (x : Zmr) : (s.setZmr x).hlk = s.hlk := rfl
@[simp] theorem State.setZmr_choices (x : Zmr) : (s.setZmr x).choices = s.choices := rfl
@[simp] theorem State.setZmr_pending (x : Zmr) : (s.setZmr x).pending = s.pending := rfl

@[simp] theorem State.setTtb_T (x : Ttb) : (s.setTtb x).T = s.T := rfl
@[simp] theorem State.setTtb_ltr (x : Ttb) : (s.setTtb x).ltr = s.ltr := rfl
@[simp] theorem State.setTtb_lmx (x : Ttb) : (s.setTtb x).lmx = s.lmx := rfl
@[simp] theorem State.setTtb_zmr (x : Ttb) : (s.setTtb x).zmr = s.zmr := rfl
@[simp] theorem State.setTtb_ttb (x : Ttb) : (s.setTtb x).ttb = x := rfl
@[simp] theorem State.setTtb_fsc (x : Ttb) : (s.setTtb x).fsc = s.fsc := rfl
@[simp] theorem State.setTtb_cdu (x : Ttb) : (s.setTtb x).cdu = s.cdu := rfl
@[simp] theorem State.setTtb_tru (x : Ttb) : (s.setTtb x).tru = s.tru := rfl
@[simp] theorem State.setTtb_obu (x : Ttb) : (s.setTtb x).obu = s.obu := rfl
@[simp] theorem State.setTtb_dlk (x : Ttb) : (s.setTtb x).dlk = s.dlk := rfl
@[simp] theorem State.setTtb_vlg (x : Ttb) : (s.setTtb x).vlg = s.vlg := rfl
@[simp] theorem State.setTtb_hlk (x : Ttb) : (s.setTtb x).hlk = s.hlk := rfl
@[simp] theorem State.setTtb_choices (x : Ttb) : (s.setTtb x).choices = s.choices := rfl
@[simp] theorem State.setTtb_pending (x : Ttb) : (s.setTtb x).pending = s.pending := rfl

@[simp] theorem State.setFsc_T (x : List FireEntry) : (s.setFsc x).T = s.T := rfl
@[simp] theorem State.setFsc_ltr (x : List FireEntry) : (s.setFsc x).ltr = s.ltr := rfl
@[simp] theorem State.setFsc_lmx (x : List FireEntry) : (s.setFsc x).lmx = s.lmx := rfl
@[simp] theorem State.setFsc_zmr (x : List FireEntry) : (s.setFsc x).zmr = s.zmr := rfl
@[simp] theorem State.setFsc_ttb (x : List FireEntry) : (s.setFsc x).ttb = s.ttb := rfl
@[simp] theorem State.setFsc_fsc (x : List FireEntry) : (s.setFsc x).fsc = x := rfl
@[simp] theorem State.setFsc_cdu (x : List FireEntry) : (s.setFsc x).cdu = s.cdu := rfl
@[simp] theorem State.setFsc_tru (x : List FireEntry) : (s.setFsc x).tru = s.tru := rfl
@[simp] theorem State.setFsc_obu (x : List FireEntry) : (s.setFsc x).obu = s.obu := rfl
@[simp] theorem State.setFsc_dlk (x : List FireEntry) : (s.setFsc x).dlk = s.dlk := rfl
@[simp] theorem State.setFsc_vlg (x : List FireEntry) : (s.setFsc x).vlg = s.vlg := rfl
@[simp] theorem State.setFsc_hlk (x : List FireEntry) : (s.setFsc x).hlk = s.hlk := rfl
@[simp] theorem State.setFsc_choices (x : List FireEntry) : (s.setFsc x).choices = s.choices := rfl
@[simp] theorem State.setFsc_pending (x : List FireEntry) : (s.setFsc x).pending = s.pending := rfl

@[simp] theorem State.setCdu_T (x : Cdu) : (s.setCdu x).T = s.T := rfl
@[simp] theorem State.setCdu_ltr (x : Cdu) : (s.setCdu x).ltr = s.ltr := rfl
@[simp] theorem State.setCdu_lmx (x : Cdu) : (s.setCdu x).lmx = s.lmx := rfl
@[simp] theorem State.setCdu_zmr (x : Cdu) : (s.setCdu x).zmr = s.zmr := rfl
@[simp] theorem State.setCdu_ttb (x : Cdu) : (s.setCdu x).ttb = s.ttb := rfl
@[simp] theorem State.setCdu_fsc (x : Cdu) : (s.setCdu x).fsc = s.fsc := rfl
@[simp] theorem State.setCdu_cdu (x : Cdu) : (s.setCdu x).cdu = x := rfl
@[simp] theorem State.setCdu_tru (x : Cdu) : (s.setCdu x).tru = s.tru := rfl
@[simp] theorem State.setCdu_obu (x : Cdu) : (s.setCdu x).obu = s.obu := rfl
@[simp] theorem State.setCdu_dlk (x : Cdu) : (s.setCdu x).dlk = s.dlk := rfl
@[simp] theorem State.setCdu_vlg (x : Cdu) : (s.setCdu x).vlg = s.vlg := rfl
@[simp] theorem State.setCdu_hlk (x : Cdu) : (s.setCdu x).hlk = s.hlk := rfl
@[simp] theorem State.setCdu_choices (x : Cdu) : (s.setCdu x).choices = s.choices := rfl
@[simp] theorem State.setCdu_pending (x : Cdu) : (s.setCdu x).pending = s.pending := rfl

@[simp] theorem State.setTru_T (x : Tru) : (s.setTru x).T = s.T := rfl
@[simp] theorem State.setTru_ltr (x : Tru) : (s.setTru x).ltr = s.ltr := rfl
@[simp] theorem State.setTru_lmx (x : Tru) : (s.setTru x).lmx = s.lmx := rfl
@[simp] theorem State.setTru_zmr (x : Tru) : (s.setTru x).zmr = s.zmr := rfl
@[simp] theorem State.setTru_ttb (x : Tru) : (s.setTru x).ttb = s.ttb := rfl
@[simp] theorem State.setTru_fsc (x : Tru) : (s.setTru x).fsc = s.fsc := rfl
@[simp] theorem State.setTru_cdu (x : Tru) : (s.setTru x).cdu = s.cdu := rfl
@[simp] theorem State.setTru_tru (x : Tru) : (s.setTru x).tru = x := rfl
@[simp] theorem State.setTru_obu (x : Tru) : (s.setTru x).obu = s.obu := rfl
@[simp] theorem State.setTru_dlk (x : Tru) : (s.setTru x).dlk = s.dlk := rfl
@[simp] theorem State.setTru_vlg (x : Tru) : (s.setTru x).vlg = s.vlg := rfl
@[simp] theorem State.setTru_hlk (x : Tru) : (s.setTru x).hlk = s.hlk := rfl
@[simp] theorem State.setTru_choices (x : Tru) : (s.setTru x).choices = s.choices := rfl
@[simp] theorem State.setTru_pending (x : Tru) : (s.setTru x).pending = s.pending := rfl

@[simp] theorem State.setObu_T (x : Obu) : (s.setObu x).T = s.T := rfl
@[simp] theorem State.setObu_ltr (x : Obu) : (s.setObu x).ltr = s.ltr := rfl
@[simp] theorem State.setObu_lmx (x : Obu) : (s.setObu x).lmx = s.lmx := rfl
@[simp] theorem State.setObu_zmr (x : Obu) : (s.setObu x).zmr = s.zmr := rfl
@[simp] theorem State.setObu_ttb (x : Obu) : (s.setObu x).ttb = s.ttb := rfl
@[simp] theorem State.setObu_fsc (x : Obu) : (s.setObu x).fsc = s.fsc := rfl
@[simp] theorem State.setObu_cdu (x : Obu) : (s.setObu x).cdu = s.cdu := rfl
@[simp] theorem State.setObu_tru (x : Obu) : (s.setObu x).tru = s.tru := rfl
@[simp] theorem State.setObu_obu (x : Obu) : (s.setObu x).obu = x := rfl
@[simp] theorem State.setObu_dlk (x : Obu) : (s.setObu x).dlk = s.dlk := rfl
@[simp] theorem State.setObu_vlg (x : Obu) : (s.setObu x).vlg = s.vlg := rfl
@[simp] theorem State.setObu_hlk (x : Obu) : (s.setObu x).hlk = s.hlk := rfl
@[simp] theorem State.setObu_choices (x : Obu) : (s.setObu x).choices = s.choices := rfl
@[simp] theorem State.setObu_pending (x : Obu) : (s.setObu x).pending = s.pending := rfl

@[simp] theorem State.setDlk_T (x : Dlk) : (s.setDlk x).T = s.T := rfl
@[simp] theorem State.setDlk_ltr (x : Dlk) : (s.setDlk x).ltr = s.ltr := rfl
@[simp] theorem State.setDlk_lmx (x : Dlk) : (s.setDlk x).lmx = s.lmx := rfl
@[simp] theorem State.setDlk_zmr (x : Dlk) : (s.setDlk x).zmr = s.zmr := rfl
@[simp] theorem State.setDlk_ttb (x : Dlk) : (s.setDlk x).ttb = s.ttb := rfl
@[simp] theorem State.setDlk_fsc (x : Dlk) : (s.setDlk x).fsc = s.fsc := rfl
@[simp] theorem State.setDlk_cdu (x : Dlk) : (s.setDlk x).cdu = s.cdu := rfl
@[simp] theorem State.setDlk_tru (x : Dlk) : (s.setDlk x).tru = s.tru := rfl
@[simp] theorem State.setDlk_obu (x : Dlk) : (s.setDlk x).obu = s.obu := rfl
@[simp] theorem State.setDlk_dlk (x : Dlk) : (s.setDlk x).dlk = x := rfl
@[simp] theorem State.setDlk_vlg (x : Dlk) : (s.setDlk x).vlg = s.vlg := rfl
@[simp] theorem State.setDlk_hlk (x : Dlk) : (s.setDlk x).hlk = s.hlk := rfl
@[simp] theorem State.setDlk_choices (x : Dlk) : (s.setDlk x).choices = s.choices := rfl
@[simp] theorem State.setDlk_pending (x : Dlk) : (s.setDlk x).pending = s.pending := rfl

@[simp] theorem State.setVlg_T (x : Vlg) : (s.setVlg x).T = s.T := rfl
@[simp] theorem State.setVlg_ltr (x : Vlg) : (s.setVlg x).ltr = s.ltr := rfl
@[simp] theorem State.setVlg_lmx (x : Vlg) : (s.setVlg x).lmx = s.lmx := rfl
@[simp] theorem State.setVlg_zmr (x : Vlg) : (s.setVlg x).zmr = s.zmr := rfl
@[simp] theorem State.setVlg_ttb (x : Vlg) : (s.setVlg x).ttb = s.ttb := rfl
@[simp] theorem State.setVlg_fsc (x : Vlg) : (s.setVlg x).fsc = s.fsc := rfl
@[simp] theorem State.setVlg_cdu (x : Vlg) : (s.setVlg x).cdu = s.cdu := rfl
@[simp] theorem State.setVlg_tru (x : Vlg) : (s.setVlg x).tru = s.tru := rfl
@[simp] theorem State.setVlg_obu (x : Vlg) : (s.setVlg x).obu = s.obu := rfl
@[simp] theorem State.setVlg_dlk (x : Vlg) : (s.setVlg x).dlk = s.dlk := rfl
@[simp] theorem State.setVlg_vlg (x : Vlg) : (s.setVlg x).vlg = x := rfl
@[simp] theorem State.setVlg_hlk (x : Vlg) : (s.setVlg x).hlk = s.hlk := rfl
@[simp] theorem State.setVlg_choices (x : Vlg) : (s.setVlg x).choices = s.choices := rfl
@[simp] theorem State.setVlg_pending (x : Vlg) : (s.setVlg x).pending = s.pending := rfl

@[simp] theorem State.setHlk_T (x : Hlk) : (s.setHlk x).T = s.T := rfl
@[simp] theorem State.setHlk_ltr (x : Hlk) : (s.setHlk x).ltr = s.ltr := rfl
@[simp] theorem State.setHlk_lmx (x : Hlk) : (s.setHlk x).lmx = s.lmx := rfl
@[simp] theorem State.setHlk_zmr (x : Hlk) : (s.setHlk x).zmr = s.zmr := rfl
@[simp] theorem State.setHlk_ttb (x : Hlk) : (s.setHlk x).ttb = s.ttb := rfl
@[simp] theorem State.setHlk_fsc (x : Hlk) : (s.setHlk x).fsc = s.fsc := rfl
@[simp] theorem State.setHlk_cdu (x : Hlk) : (s.setHlk x).cdu = s.cdu := rfl
@[simp] theorem State.setHlk_tru (x : Hlk) : (s.setHlk x).tru = s.tru := rfl
@[simp] theorem State.setHlk_obu (x : Hlk) : (s.setHlk x).obu = s.obu := rfl
@[simp] theorem State.setHlk_dlk (x : Hlk) : (s.setHlk x).dlk = s.dlk := rfl
@[simp] theorem State.setHlk_vlg (x : Hlk) : (s.setHlk x).vlg = s.vlg := rfl
@[simp] theorem State.setHlk_hlk (x : Hlk) : (s.setHlk x).hlk = x := rfl
@[simp] theorem State.setHlk_choices (x : Hlk) : (s.setHlk x).choices = s.choices := rfl
@[simp] theorem State.setHlk_pending (x : Hlk) : (s.setHlk x).pending = s.pending := rfl

@[simp] theorem State.setLine_T (l : LineNo) (x : FieldLine) : (s.setLine l x).T = s.T := rfl
@[simp] theorem State.setLine_ltr (l : LineNo) (x : FieldLine) : (s.setLine l x).ltr = s.ltr := rfl
@[simp] theorem State.setLine_lmx (l : LineNo) (x : FieldLine) : (s.setLine l x).lmx = { s.lmx with lines := s.lmx.lines.set l x } := rfl
@[simp] theorem State.setLine_zmr (l : LineNo) (x : FieldLine) : (s.setLine l x).zmr = s.zmr := rfl
@[simp] theorem State.setLine_ttb (l : LineNo) (x : FieldLine) : (s.setLine l x).ttb = s.ttb := rfl
@[simp] theorem State.setLine_fsc (l : LineNo) (x : FieldLine) : (s.setLine l x).fsc = s.fsc := rfl
@[simp] theorem State.setLine_cdu (l : LineNo) (x : FieldLine) : (s.setLine l x).cdu = s.cdu := rfl
@[simp] theorem State.setLine_tru (l : LineNo) (x : FieldLine) : (s.setLine l x).tru = s.tru := rfl
@[simp] theorem State.setLine_obu (l : LineNo) (x : FieldLine) : (s.setLine l x).obu = s.obu := rfl
@[simp] theorem State.setLine_dlk (l : LineNo) (x : FieldLine) : (s.setLine l x).dlk = s.dlk := rfl
@[simp] theorem State.setLine_vlg (l : LineNo) (x : FieldLine) : (s.setLine l x).vlg = s.vlg := rfl
@[simp] theorem State.setLine_hlk (l : LineNo) (x : FieldLine) : (s.setLine l x).hlk = s.hlk := rfl
@[simp] theorem State.setLine_choices (l : LineNo) (x : FieldLine) : (s.setLine l x).choices = s.choices := rfl
@[simp] theorem State.setLine_pending (l : LineNo) (x : FieldLine) : (s.setLine l x).pending = s.pending := rfl

@[simp] theorem State.setTrial_T (k : Slot) (t : Option Trial) : (s.setTrial k t).T = s.T := rfl
@[simp] theorem State.setTrial_ltr (k : Slot) (t : Option Trial) : (s.setTrial k t).ltr = s.ltr := rfl
@[simp] theorem State.setTrial_lmx (k : Slot) (t : Option Trial) : (s.setTrial k t).lmx = s.lmx := rfl
@[simp] theorem State.setTrial_zmr (k : Slot) (t : Option Trial) : (s.setTrial k t).zmr = s.zmr := rfl
@[simp] theorem State.setTrial_ttb (k : Slot) (t : Option Trial) : (s.setTrial k t).ttb = { s.ttb with slots := s.ttb.slots.set k t } := rfl
@[simp] theorem State.setTrial_fsc (k : Slot) (t : Option Trial) : (s.setTrial k t).fsc = s.fsc := rfl
@[simp] theorem State.setTrial_cdu (k : Slot) (t : Option Trial) : (s.setTrial k t).cdu = s.cdu := rfl
@[simp] theorem State.setTrial_tru (k : Slot) (t : Option Trial) : (s.setTrial k t).tru = s.tru := rfl
@[simp] theorem State.setTrial_obu (k : Slot) (t : Option Trial) : (s.setTrial k t).obu = s.obu := rfl
@[simp] theorem State.setTrial_dlk (k : Slot) (t : Option Trial) : (s.setTrial k t).dlk = s.dlk := rfl
@[simp] theorem State.setTrial_vlg (k : Slot) (t : Option Trial) : (s.setTrial k t).vlg = s.vlg := rfl
@[simp] theorem State.setTrial_hlk (k : Slot) (t : Option Trial) : (s.setTrial k t).hlk = s.hlk := rfl
@[simp] theorem State.setTrial_choices (k : Slot) (t : Option Trial) : (s.setTrial k t).choices = s.choices := rfl
@[simp] theorem State.setTrial_pending (k : Slot) (t : Option Trial) : (s.setTrial k t).pending = s.pending := rfl

@[simp] theorem State.setChannel_T (c : Chan) (x : Channel) : (s.setChannel c x).T = s.T := rfl
@[simp] theorem State.setChannel_ltr (c : Chan) (x : Channel) : (s.setChannel c x).ltr = s.ltr := rfl
@[simp] theorem State.setChannel_lmx (c : Chan) (x : Channel) : (s.setChannel c x).lmx = s.lmx := rfl
@[simp] theorem State.setChannel_zmr (c : Chan) (x : Channel) : (s.setChannel c x).zmr = s.zmr := rfl
@[simp] theorem State.setChannel_ttb (c : Chan) (x : Channel) : (s.setChannel c x).ttb = s.ttb := rfl
@[simp] theorem State.setChannel_fsc (c : Chan) (x : Channel) : (s.setChannel c x).fsc = s.fsc := rfl
@[simp] theorem State.setChannel_cdu (c : Chan) (x : Channel) : (s.setChannel c x).cdu = { s.cdu with channels := s.cdu.channels.set c x } := rfl
@[simp] theorem State.setChannel_tru (c : Chan) (x : Channel) : (s.setChannel c x).tru = s.tru := rfl
@[simp] theorem State.setChannel_obu (c : Chan) (x : Channel) : (s.setChannel c x).obu = s.obu := rfl
@[simp] theorem State.setChannel_dlk (c : Chan) (x : Channel) : (s.setChannel c x).dlk = s.dlk := rfl
@[simp] theorem State.setChannel_vlg (c : Chan) (x : Channel) : (s.setChannel c x).vlg = s.vlg := rfl
@[simp] theorem State.setChannel_hlk (c : Chan) (x : Channel) : (s.setChannel c x).hlk = s.hlk := rfl
@[simp] theorem State.setChannel_choices (c : Chan) (x : Channel) : (s.setChannel c x).choices = s.choices := rfl
@[simp] theorem State.setChannel_pending (c : Chan) (x : Channel) : (s.setChannel c x).pending = s.pending := rfl

@[simp] theorem State.assertRequest_T (b : Bool) : (s.assertRequest b).T = s.T := rfl
@[simp] theorem State.assertRequest_ltr (b : Bool) : (s.assertRequest b).ltr = s.ltr := rfl
@[simp] theorem State.assertRequest_lmx (b : Bool) : (s.assertRequest b).lmx = { s.lmx with asserted := b } := rfl
@[simp] theorem State.assertRequest_zmr (b : Bool) : (s.assertRequest b).zmr = s.zmr := rfl
@[simp] theorem State.assertRequest_ttb (b : Bool) : (s.assertRequest b).ttb = s.ttb := rfl
@[simp] theorem State.assertRequest_fsc (b : Bool) : (s.assertRequest b).fsc = s.fsc := rfl
@[simp] theorem State.assertRequest_cdu (b : Bool) : (s.assertRequest b).cdu = s.cdu := rfl
@[simp] theorem State.assertRequest_tru (b : Bool) : (s.assertRequest b).tru = s.tru := rfl
@[simp] theorem State.assertRequest_obu (b : Bool) : (s.assertRequest b).obu = s.obu := rfl
@[simp] theorem State.assertRequest_dlk (b : Bool) : (s.assertRequest b).dlk = s.dlk := rfl
@[simp] theorem State.assertRequest_vlg (b : Bool) : (s.assertRequest b).vlg = s.vlg := rfl
@[simp] theorem State.assertRequest_hlk (b : Bool) : (s.assertRequest b).hlk = s.hlk := rfl
@[simp] theorem State.assertRequest_choices (b : Bool) : (s.assertRequest b).choices = s.choices := rfl
@[simp] theorem State.assertRequest_pending (b : Bool) : (s.assertRequest b).pending = s.pending := rfl

@[simp] theorem State.raise_T (k : NoticeKind) : (s.raise k).T = s.T := rfl
@[simp] theorem State.raise_ltr (k : NoticeKind) : (s.raise k).ltr = s.ltr := rfl
@[simp] theorem State.raise_lmx (k : NoticeKind) : (s.raise k).lmx = s.lmx := rfl
@[simp] theorem State.raise_zmr (k : NoticeKind) : (s.raise k).zmr = s.zmr := rfl
@[simp] theorem State.raise_ttb (k : NoticeKind) : (s.raise k).ttb = s.ttb := rfl
@[simp] theorem State.raise_fsc (k : NoticeKind) : (s.raise k).fsc = s.fsc := rfl
@[simp] theorem State.raise_cdu (k : NoticeKind) : (s.raise k).cdu = s.cdu := rfl
@[simp] theorem State.raise_tru (k : NoticeKind) : (s.raise k).tru = s.tru := rfl
@[simp] theorem State.raise_obu (k : NoticeKind) : (s.raise k).obu = s.obu := rfl
@[simp] theorem State.raise_dlk (k : NoticeKind) : (s.raise k).dlk = s.dlk := rfl
@[simp] theorem State.raise_vlg (k : NoticeKind) : (s.raise k).vlg = s.vlg := rfl
@[simp] theorem State.raise_hlk (k : NoticeKind) : (s.raise k).hlk = s.hlk.raise k := rfl
@[simp] theorem State.raise_choices (k : NoticeKind) : (s.raise k).choices = s.choices := rfl
@[simp] theorem State.raise_pending (k : NoticeKind) : (s.raise k).pending = s.pending := rfl

/-- Reading a line back after a line is set. -/
theorem State.setLine_line (l : LineNo) (x : FieldLine) (m : LineNo) :
    (s.setLine l x).line m = if l = m then x else s.line m := by
  simp only [State.line, State.setLine_lmx, Fin.getElem_fin, Vector.getElem_set]
  split <;> rename_i h
  · simp [Fin.ext h]
  · simp [show l ≠ m from fun e => h (by rw [e])]

/-- Reading a slot back after a slot is set. -/
theorem State.setTrial_trial (k : Slot) (t : Option Trial) (m : Slot) :
    (s.setTrial k t).trial m = if k = m then t else s.trial m := by
  simp only [State.trial, State.setTrial_ttb, Fin.getElem_fin, Vector.getElem_set]
  split <;> rename_i h
  · simp [Fin.ext h]
  · simp [show k ≠ m from fun e => h (by rw [e])]

/-- Reading a channel back after a channel is set. -/
theorem State.setChannel_channel (c : Chan) (x : Channel) (d : Chan) :
    (s.setChannel c x).channel d = if c = d then x else s.channel d := by
  simp only [State.channel, State.setChannel_cdu, Fin.getElem_fin, Vector.getElem_set]
  split <;> rename_i h
  · simp [Fin.ext h]
  · simp [show c ≠ d from fun e => h (by rw [e])]

end Sys2Proof.Machine
end

