-- ==== Sys2Proof/Laws/Kept.lean ====
section
/-! SUPPORT. What no follow-on effect reaches: every operation between blocks leaves `State.kept` as it was. -/

namespace Sys2Proof.Machine

/-! ## Single updates -/

variable (s : State)

@[simp] theorem State.setFsc_kept (x : List FireEntry) : (s.setFsc x).kept = s.kept := rfl
@[simp] theorem State.setObu_kept (x : Obu) : (s.setObu x).kept = s.kept := rfl
@[simp] theorem State.setDlk_kept (x : Dlk) : (s.setDlk x).kept = s.kept := rfl
@[simp] theorem State.setVlg_kept (x : Vlg) : (s.setVlg x).kept = s.kept := rfl
@[simp] theorem State.choose_kept : s.choose.kept = s.kept := rfl
@[simp] theorem State.assertRequest_kept (b : Bool) : (s.assertRequest b).kept = s.kept := rfl
@[simp] theorem State.setTrial_kept (k : Slot) (t : Option Trial) : (s.setTrial k t).kept = s.kept := rfl
@[simp] theorem State.setChannel_kept (c : Chan) (x : Channel) : (s.setChannel c x).kept = s.kept := rfl

theorem State.setLtr_kept (x : Ltr) : (s.setLtr x).kept = s.kept.setLtr x := rfl

theorem State.setTtb_kept {x : Ttb} (h : x.kept = s.ttb.kept) : (s.setTtb x).kept = s.kept := by
  simp [State.kept, State.setTtb, h]

theorem State.setCdu_kept {x : Cdu} (h : x.kept = s.cdu.kept) : (s.setCdu x).kept = s.kept := by
  simp [State.kept, State.setCdu, h]

theorem State.setTru_kept {x : Tru} (h : x.kept = s.tru.kept) : (s.setTru x).kept = s.kept := by
  simp [State.kept, State.setTru, h]

theorem State.setHlk_kept {x : Hlk} (h : x.kept = s.hlk.kept) : (s.setHlk x).kept = s.kept := by
  simp [State.kept, State.setHlk, h]

@[simp] theorem Hlk.raise_kept (h : Hlk) (k : NoticeKind) : (h.raise k).kept = h.kept := by
  unfold Hlk.raise; split <;> rfl

@[simp] theorem State.raise_kept (k : NoticeKind) : (s.raise k).kept = s.kept := s.setHlk_kept (by simp)

/-! ## Traces -/

@[simp] theorem Tru.grantTo_kept (u : Tru) (b : Buf) (n : Nat) (c : Chan) (f : TraceFields) (p : Profile) :
    (u.grantTo b n c f p).kept = u.kept := rfl

@[simp] theorem Tru.completeBuffer_kept (u : Tru) (b : Buf) (x : TraceCause) : (u.completeBuffer b x).kept = u.kept := by
  unfold Tru.completeBuffer; split <;> rfl

@[simp] theorem Tru.complete_kept (u : Tru) (n : Nat) (x : TraceCause) : (u.complete n x).kept = u.kept := by
  unfold Tru.complete; split <;> simp

@[simp] theorem Tru.startTrace_kept (u : Tru) (n : Nat) (t : Time) : (u.startTrace n t).kept = u.kept := by
  unfold Tru.startTrace; split
  · rfl
  · split <;> rfl

@[simp] theorem Tru.appendTo_kept (u : Tru) (b : Buf) (v : Adc) (p : ChanState) : (u.appendTo b v p).kept = u.kept := by
  unfold Tru.appendTo; split
  · rfl
  · dsimp only; split
    · rw [Tru.completeBuffer_kept]; rfl
    · rfl

/-! ## The arbiter -/

@[simp] theorem State.handOver_kept (c : Chan) (p : Profile) (o : Owner) : (s.handOver c p o).kept = s.kept := rfl

@[simp] theorem State.grantTrace_kept (t : Trial) (b : Option Buf) : (s.grantTrace t b).kept = s.kept := by
  unfold State.grantTrace; split
  · split
    · exact s.setTru_kept (by simp)
    · rfl
  · split
    · exact s.setTru_kept (by simp)
    · rfl
  · rfl

@[simp] theorem State.takeResources_kept (k : Slot) (t : Trial) (n : Needs) : (s.takeResources k t n).kept = s.kept := by
  simp only [State.takeResources, State.grantTrace_kept, State.setVlg_kept]
  exact s.setTtb_kept rfl

@[simp] theorem State.startWork_kept (k : Slot) (t : Trial) : (s.startWork k t).kept = s.kept := by
  unfold State.startWork; split
  · unfold State.startChute; split <;> simp
  · unfold State.startCoil; split <;> simp
  · unfold State.startEye; split <;> simp
  · unfold State.startDrive; split <;> simp

@[simp] theorem State.arm_kept (k : Slot) (t : Trial) (n : Needs) : (s.arm k t n).kept = s.kept := by simp [State.arm]

theorem scanTurn_kept (acc : State × List Needs) (k : Slot) : (scanTurn acc k).1.kept = acc.1.kept := by
  unfold scanTurn; split
  · rfl
  · split
    · rfl
    · split <;> simp

/-- A fold of operations that keep the rest keeps it. -/
theorem foldl_kept {α : Type} (f : State → α → State) (h : ∀ s a, (f s a).kept = s.kept) (xs : List α) (s : State) :
    (xs.foldl f s).kept = s.kept := by
  induction xs generalizing s with
  | nil => rfl
  | cons a xs ih => rw [List.foldl_cons, ih, h]

theorem foldl_scanTurn_kept (ks : List Slot) (acc : State × List Needs) : (ks.foldl scanTurn acc).1.kept = acc.1.kept := by
  induction ks generalizing acc with
  | nil => rfl
  | cons k ks ih => rw [List.foldl_cons, ih, scanTurn_kept]

@[simp] theorem State.scan_kept : s.scan.kept = s.kept := foldl_scanTurn_kept _ _

@[simp] theorem State.scanIf_kept (b : Bool) : (s.scanIf b).kept = s.kept := by unfold State.scanIf; split <;> simp

theorem State.completionScan_kept (a b : Bool) {k : State → State} (h : ∀ s, (k s).kept = s.kept) :
    (s.completionScan a b k).kept = s.kept := by
  unfold State.completionScan; split
  · split <;> simp [h]
  · exact h s

/-! ## Verdicts, watches and coils -/

@[simp] theorem State.writeVerdict_kept (k : Slot) (r : Option Reason) : (s.writeVerdict k r).kept = s.kept := by
  unfold State.writeVerdict; split
  · rfl
  · split
    · rw [State.setTtb_kept]
      · simp
      · simp only [Ttb.empty, Ttb.kept, State.setObu_ttb, State.raise_ttb, State.setVlg_ttb]
    · rfl

@[simp] theorem State.endWatch_kept (k : Slot) (f : Watch → Watch) : (s.endWatch k f).kept = s.kept := by
  unfold State.endWatch; split
  · rfl
  · split <;> simp

@[simp] theorem State.finishIfComplete_kept (k : Slot) (b : Bool) : (s.finishIfComplete k b).kept = s.kept := by
  unfold State.finishIfComplete; split <;> simp

@[simp] theorem State.expireWatch_kept (k : Slot) : (s.expireWatch k).kept = s.kept := by simp [State.expireWatch]

@[simp] theorem State.openWatchFor_kept (k : Slot) (n : Nat) (i : FireInfo) (r : ChuteRecord) :
    (s.openWatchFor k n i r).kept = s.kept := by unfold State.openWatchFor; split <;> simp

@[simp] theorem State.fire_kept (e : FireEntry) (i : FireInfo) : (s.fire e i).kept = s.kept := by
  unfold State.fire; split
  · rfl
  · split
    · dsimp only; split <;> simp
    · rfl

@[simp] theorem State.runEntries_kept (f : FireEntry → EntryStep) : (s.runEntries f).kept = s.kept := by
  unfold State.runEntries
  exact foldl_kept (fun s (x : FireEntry × FireInfo) => s.fire x.1 x.2) (fun s x => s.fire_kept x.1 x.2) _ _

@[simp] theorem State.closeEye_kept (k : Slot) (r : Option Reason) (b : Bool) : (s.closeEye k r b).kept = s.kept := by
  unfold State.closeEye; split <;> simp

@[simp] theorem State.moveEyes_kept (d : Int) : (s.moveEyes d).kept = s.kept := by
  unfold State.moveEyes; split
  · rw [foldl_kept _ (fun s k => by simp)]; rfl
  · rfl

@[simp] theorem State.coilDone_kept (c : Chan) (e : CoilEnding) (p : Option ChanState) (b : Bool) :
    (s.coilDone c e p b).kept = s.kept := by
  unfold State.coilDone; split
  · rfl
  · split
    · rfl
    · rw [State.completionScan_kept _ _ _ (fun s => by simp), State.setObu_kept, State.setChannel_kept, State.setTru_kept]
      · split
        · rfl
        · exact s.setTru_kept (by simp)
      · rfl

@[simp] theorem State.tripChannel_kept (c : Chan) (v : Adc) : (s.tripChannel c v).kept = s.kept := by simp [State.tripChannel]

/-! ## Ends of trials and the drive link -/

@[simp] theorem State.linkLeave_kept (d : Dlk) (x : LinkState) (b : Bool) : (s.linkLeave d x b).kept = s.kept := by
  unfold State.linkLeave; split
  · split <;> simp
  · split <;> simp

@[simp] theorem State.linkStep_kept (x : LinkStep) : (s.linkStep x).kept = s.kept := by unfold State.linkStep; split <;> simp

@[simp] theorem State.linkCancel_kept (b : Bool) : (s.linkCancel b).kept = s.kept := by
  unfold State.linkCancel; split <;> simp

@[simp] theorem State.linkHalt_kept (c : HaltCause) : (s.linkHalt c).kept = s.kept := by
  unfold State.linkHalt; split
  · simp
  · simp
  · split <;> simp
  · rfl
  · rfl

@[simp] theorem State.busyEdge_kept : s.busyEdge.kept = s.kept := by unfold State.busyEdge; split <;> simp

@[simp] theorem State.checkDue_kept : s.checkDue.kept = s.kept := by unfold State.checkDue; split <;> simp

@[simp] theorem State.endArmed_kept (k : Slot) (r : Option Reason) (c : TraceCause) (b : Bool) :
    (s.endArmed k r c b).kept = s.kept := by
  unfold State.endArmed; split
  · rfl
  · split
    · rw [State.completionScan_kept _ _ _ (fun s => by simp)]; exact s.setTru_kept (by simp)
    · rfl

@[simp] theorem State.dropEntry_kept (k : Slot) : (s.dropEntry k).kept = s.kept := rfl

@[simp] theorem State.setEnd_kept (k : Slot) (e : TrialEnd) : (s.setEnd k e).kept = s.kept := by
  unfold State.setEnd; split
  · rfl
  · split <;> simp

@[simp] theorem State.abortPositions_kept (r : Reason) : (s.abortPositions r).kept = s.kept := by
  unfold State.abortPositions
  have h1 : ∀ (ks : List Slot) (s : State), (ks.foldl (fun s k => s.endArmed k (some r) .removed true) s).kept = s.kept :=
    fun ks s => foldl_kept _ (fun s k => by simp) ks s
  have h2 : ∀ (ks : List Slot) (s : State), (ks.foldl (fun s k => s.closeEye k (some r) true) s).kept = s.kept :=
    fun ks s => foldl_kept _ (fun s k => by simp) ks s
  dsimp only
  split
  · rw [h2, h1]; rfl
  · split
    · rw [h1, h2]; rfl
    · rw [h2, h1]; rfl

@[simp] theorem State.forceStop_kept (c : Chan) : (s.forceStop c).kept = s.kept := by
  unfold State.forceStop; dsimp only; split
  · simp
  · split <;> simp

@[simp] theorem State.haltCoil_kept (k : Slot) (t : Trial) (c : HaltCause) : (s.haltCoil k t c).kept = s.kept := by
  unfold State.haltCoil
  have h : (((s.setEnd k (.aborted c)).setTru (s.tru.complete t.number .halted)).endWatch k Watch.stop).kept = s.kept := by
    rw [State.endWatch_kept, State.setTru_kept]
    · simp
    · rw [Tru.complete_kept]
      exact congrArg State.tru (s.setEnd_kept k (.aborted c)).symm
  dsimp only
  rw [State.scan_kept, State.writeVerdict_kept]
  split
  · rw [State.forceStop_kept, h]
  · exact h

@[simp] theorem haltOne_kept (c : HaltCause) (k : Slot) : (haltOne c s k).kept = s.kept := by
  unfold haltOne; split
  · rfl
  · split
    · simp
    · simp
    · split <;> simp

/-! ## Cancels -/

@[simp] theorem State.cancelChannel_kept (c : Chan) (b : Bool) : (s.cancelChannel c b).kept = s.kept := by
  unfold State.cancelChannel; dsimp only; split <;> simp

@[simp] theorem State.cancelCoil_kept (k : Slot) (t : Trial) (b : Bool) : (s.cancelCoil k t b).kept = s.kept := by
  unfold State.cancelCoil
  dsimp only
  rw [State.completionScan_kept]
  · rw [State.setTru_kept]
    · simp
    · simp
  · intro s; split <;> simp

@[simp] theorem State.cancelSlot_kept (k : Slot) (b : Bool) : (s.cancelSlot k b).1.kept = s.kept := by
  unfold State.cancelSlot; split
  · rfl
  · split
    · dsimp only; rw [State.scanIf_kept, State.setTtb_kept]; rfl
    · simp
    · split
      · rfl
      · dsimp only; split <;> simp

@[simp] theorem State.cancelAll_kept : s.cancelAll.1.kept = s.kept := by
  unfold State.cancelAll
  generalize s.ttb.oldestFirst = ks
  suffices h : ∀ (acc : State × CancelCounts),
      (ks.foldl (fun acc k => ((acc.1.cancelSlot k false).1, acc.2.add (acc.1.cancelSlot k false).2)) acc).1.kept
        = acc.1.kept from h _
  induction ks with
  | nil => intro acc; rfl
  | cons k ks ih => intro acc; rw [List.foldl_cons, ih]; simp

/-! ## Events -/

/-- A lookup in the part that is kept, from the equality of what is kept. -/
theorem State.ltr_of_kept {s t : State} (h : s.kept = t.kept) : s.ltr = t.ltr :=
  show s.kept.ltr = t.kept.ltr by rw [h]
theorem State.T_of_kept {s t : State} (h : s.kept = t.kept) : s.T = t.T :=
  show s.kept.T = t.kept.T by rw [h]
theorem State.zmr_of_kept {s t : State} (h : s.kept = t.kept) : s.zmr = t.zmr :=
  show s.kept.zmr = t.kept.zmr by rw [h]
theorem State.lines_of_kept {s t : State} (h : s.kept = t.kept) : s.lmx.lines = t.lmx.lines :=
  show s.kept.lmx.lines = t.kept.lmx.lines by rw [h]
theorem State.run_of_kept {s t : State} (h : s.kept = t.kept) : s.ttb.run = t.ttb.run :=
  show s.kept.ttb.run = t.kept.ttb.run by rw [h]
theorem State.queue_of_kept {s t : State} (h : s.kept = t.kept) : s.hlk.queue = t.hlk.queue :=
  show s.kept.hlk.queue = t.kept.hlk.queue by rw [h]
theorem State.busy_of_kept {s t : State} (h : s.kept = t.kept) : s.hlk.busy = t.hlk.busy :=
  show s.kept.hlk.busy = t.kept.hlk.busy by rw [h]
theorem State.held_of_kept {s t : State} (h : s.kept = t.kept) : s.hlk.held = t.hlk.held :=
  show s.kept.hlk.held = t.kept.hlk.held by rw [h]

/-- A forward count moves the tracker, and nothing else that is kept. -/
theorem State.countForward_kept : s.countForward.kept = (s.setLtr s.ltr.forward).kept := by
  simp [State.countForward]

/-- An entry into LOST moves the tracker's trust, and nothing else that is kept. -/
theorem State.lose_kept : s.lose.kept = (s.setLtr s.ltr.lose).kept := by simp [State.lose]

/-- A backward count moves the tracker, which a loss by excursion then puts in LOST. -/
theorem State.countBackward_kept :
    s.countBackward.kept =
      (s.setLtr (if s.ltr.backward.excursionLoss then s.ltr.backward.lose else s.ltr.backward)).kept := by
  have h : (((s.setLtr s.ltr.backward).runEntries fun e => e.onBackward s.ltr.H).moveEyes (-1)).kept
      = (s.setLtr s.ltr.backward).kept := by simp
  by_cases hb : s.ltr.backward.excursionLoss = true
  · simp only [State.countBackward, State.setLtr_ltr, hb, if_true]
    rw [State.lose_kept, State.setLtr_kept, h, State.ltr_of_kept h]; rfl
  · simp only [State.countBackward, State.setLtr_ltr, hb]
    exact h

/-- An illegal transition moves the decoder reference, and a SYNCED tracker into LOST. -/
theorem State.illegal_kept :
    s.illegal.kept = (s.setLtr (if s.ltr.trust = .synced then s.ltr.illegal.lose else s.ltr.illegal)).kept := by
  unfold State.illegal
  by_cases h : s.ltr.trust = .synced
  · simp only [h, if_true]; rw [State.lose_kept]; rfl
  · simp only [h, if_false]

/-- A window close moves the tracker's window, and nothing else that is kept. -/
theorem State.closeWindow_kept : s.closeWindow.kept = (s.setLtr s.ltr.closeWindow).kept := by
  unfold State.closeWindow; dsimp only; rw [State.setDlk_kept]; split <;> simp

/-- A home edge moves the tracker alone, of what is kept. -/
theorem State.homeEdge_kept :
    s.homeEdge.kept = (s.setLtr (if s.ltr.trust = .synced then
      (if s.ltr.homeOffset.natAbs ≤ s.ltr.HT then s.ltr.correct else s.ltr.missHome.lose) else s.ltr.sync)).kept := by
  unfold State.homeEdge
  by_cases h : s.ltr.trust = .synced
  · by_cases g : s.ltr.homeOffset.natAbs ≤ s.ltr.HT
    · simp [h, g]
    · simp only [h, g, if_true, if_false]; rw [State.lose_kept]; rfl
  · simp [h, State.trackChanged]

/-- A PWM boundary opens a period, and changes nothing else that is kept. -/
theorem State.boundary_kept :
    s.boundary.kept =
      ((s.setCdu { s.cdu with periodStart := s.T }).setTru { s.tru with scanBegun := false }).kept := by
  have hst : ∀ (ks : List Chan) (u : Tru), (ks.foldl (fun u c =>
      match (s.cdu.channels[c]).startPending, (s.cdu.channels[c]).owner with
      | true, some o => u.startTrace o.number s.T
      | _, _ => u) u).kept = u.kept := by
    intro ks
    induction ks with
    | nil => intro u; rfl
    | cons c ks ih => intro u; rw [List.foldl_cons, ih]; split <;> simp
  have hd : ∀ (ks : List Chan) (x : State), (ks.foldl (fun s c => s.coilDone c .complete none true) x).kept = x.kept :=
    fun ks x => foldl_kept _ (fun s c => by simp) ks x
  have ht : (startTraces s.tru s.cdu.channels s.T).kept = s.tru.kept := hst _ _
  have h2 : ∀ (v : Vector Channel 16),
      ((s.setCdu { channels := v, periodStart := s.T }).setTru
        { startTraces s.tru s.cdu.channels s.T with scanBegun := false }).kept
      = ((s.setCdu { s.cdu with periodStart := s.T }).setTru { s.tru with scanBegun := false }).kept := by
    intro v
    have ht' : Tru.kept { startTraces s.tru s.cdu.channels s.T with scanBegun := false }
        = Tru.kept { s.tru with scanBegun := false } := by
      simp only [Tru.kept] at ht ⊢
      injection ht with _ b c d e f
      simp [*]
    simp only [State.kept, State.setTru, State.setCdu, ht']
    rfl
  unfold State.boundary
  dsimp only [State.setCdu_tru, State.setCdu_T]
  split
  · rw [hd]; exact h2 _
  · rw [hd]; exact h2 _

/-- The end of a scan conversion moves the scan on, and nothing else that is kept. -/
theorem State.deliverSample_kept :
    s.deliverSample.kept =
      (match s.tru.scanList with
       | [] => s
       | _ :: rest => s.setTru { s.tru with scanList := rest, converted := s.tru.converted + 1 }).kept := by
  cases hs : s.tru.scanList with
  | nil => simp only [State.deliverSample, hs]
  | cons x rest =>
    obtain ⟨c, v⟩ := x
    simp only [State.deliverSample, hs]
    split
    · split <;> simp
    · split
      · rw [State.completionScan_kept _ _ _ (fun s => by simp)]; exact State.setTru_kept _ (Tru.appendTo_kept ..)
      · rw [State.scanIf_kept]; exact State.setTru_kept _ (Tru.appendTo_kept ..)

/-- The entry into HALTED changes run control and the safe levels, and nothing else that is kept. -/
theorem State.enterHalted_kept (c : HaltCause) :
    (s.enterHalted c).kept =
      ((s.setTtb { s.ttb with run := .halted c }).setLmx s.lmx.applySafe).kept := by
  have h : ∀ (ks : List Slot) (x : State), (ks.foldl (haltOne c) x).kept = x.kept :=
    fun ks x => foldl_kept _ (fun s k => by simp) ks x
  unfold State.enterHalted
  dsimp only
  refine (State.setCdu_kept _ (by rfl)).trans ?_
  rw [h, State.setFsc_kept]
  simp only [State.kept, State.setLmx, State.raise, State.setHlk, State.setTtb, Hlk.raise_kept]

/-- A STOP that comes while HALTED changes the cause, and nothing else that is kept. -/
theorem State.stopWhileHalted_kept :
    s.stopWhileHalted.kept = (s.setTtb { s.ttb with run := .halted .stop }).kept := by
  unfold State.stopWhileHalted; dsimp only
  split
  · split
    · split <;> simp
    · simp
  · rfl

/-- An eye edge reaches the observation unit alone. -/
@[simp] theorem State.eyeEdge_kept (l : LineNo) (a : Bool) (r : Time) (g : Nat) : (s.eyeEdge l a r g).kept = s.kept := by
  unfold State.eyeEdge; split
  · rfl
  · split <;> simp

end Sys2Proof.Machine
end

