-- ==== Sys2Proof/Laws/Effects.lean ====
section
/-! SUPPORT. What follow-on effects can do, said once: an event's effects beyond its own first one are a sequence of the
elementary effects below. An invariant that each elementary effect keeps is kept by every operation of Endings.lean. -/

namespace Sys2Proof.Machine

/-- A channel that drives nothing and has nothing pending (R71, R105). -/
def Channel.Quiet (c : Channel) : Prop := (c.state = .idle ∨ c.state = .fault) ∧ c.startPending = false

/-- One elementary effect. `live` is what must hold for work to start: run control RUNNING, or entries in the fire list. -/
inductive Effect (live : Prop) : State → State → Prop where
  /-- observations change -/
  | obu (s : State) (x : Obu) : Effect live s (s.setObu x)
  /-- traces or coil results change -/
  | tru (s : State) (x : Tru) (h : x.kept = s.tru.kept) : Effect live s (s.setTru x)
  /-- a notice flag is set -/
  | raise (s : State) (k : NoticeKind) : Effect live s (s.raise k)
  /-- a free choice is taken -/
  | choose (s : State) : Effect live s s.choose
  /-- entries of the fire list move or leave -/
  | entries (s : State) (x : List FireEntry) (h : x.length ≤ s.fsc.length) : Effect live s (s.setFsc x)
  /-- an entry joins the fire list of a synchronised tracker -/
  | entry (s : State) (e : FireEntry) (h : live) (hp : s.ltr.trust = .synced) : Effect live s (s.setFsc (s.fsc ++ [e]))
  /-- a trial's record changes, beyond LOADED if and only if it was, its number and what it holds kept -/
  | trial (s : State) (k : Slot) (t u : Trial) (h : s.trial k = some t) (hu : u.begun = t.begun)
      (hn : u.number = t.number) (hh : u.held = t.held) : Effect live s (s.setTrial k (some u))
  /-- a LOADED trial leaves -/
  | drop (s : State) (k : Slot) (t : Trial) (h : s.trial k = some t) (ht : t.begun = false) :
      Effect live s (s.setTtb (s.ttb.empty k t.held))
  /-- a verdict is written -/
  | verdict (s : State) (k : Slot) (r : Option Reason) : Effect live s (s.writeVerdict k r)
  /-- a LOADED trial arms and takes its resources -/
  | take (s : State) (k : Slot) (t : Trial) (n : Needs) (h : s.trial k = some t) (ht : t.begun = false)
      (hl : live) (hp : s.vlg.placeFree = true) (hr : s.resourceHeld n = false) : Effect live s (s.takeResources k t n)
  /-- a channel changes: it starts work, or stays quiet if it was -/
  | channel (s : State) (c : Chan) (x : Channel) (h : live ∨ ((s.channel c).Quiet → x.Quiet)) :
      Effect live s (s.setChannel c x)
  /-- the link changes, engaged if and only if it was -/
  | link (s : State) (d : Dlk) (h : d.state.engaged = s.dlk.state.engaged) : Effect live s (s.setDlk d)
  /-- the link changes, and the request line with it -/
  | request (s : State) (d : Dlk) (b : Bool) (h : d.state.engaged = b) :
      Effect live s ((s.setDlk d).assertRequest b)

/-- A sequence of elementary effects. -/
inductive Effects (live : Prop) : State → State → Prop where
  | refl (s : State) : Effects live s s
  | tail {s t u : State} (h : Effects live s t) (e : Effect live t u) : Effects live s u

variable {live : Prop} {s t u : State}

theorem Effects.one (e : Effect live s t) : Effects live s t := .tail (.refl s) e

theorem Effects.trans (h : Effects live s t) (g : Effects live t u) : Effects live s u := by
  induction g with
  | refl => exact h
  | tail _ e ih => exact .tail ih e

theorem Effects.of_eq (h : s = t) : Effects live s t := h ▸ .refl s

/-- An invariant that every elementary effect keeps is kept by a sequence of them. -/
theorem Effects.keep {I : State → Prop} (hI : ∀ s t, Effect live s t → I s → I t) (h : Effects live s t) (hs : I s) : I t := by
  induction h with
  | refl => exact hs
  | tail _ e ih => exact hI _ _ e ih

/-- Run control is no elementary effect's. -/
theorem Effect.kept_eq (e : Effect live s t) : t.kept = s.kept := by
  cases e with
  | tru x h => exact s.setTru_kept h
  | drop k t h ht => exact s.setTtb_kept rfl
  | _ => first | rfl | simp

theorem Effects.kept_eq (h : Effects live s t) : t.kept = s.kept := by
  induction h with
  | refl => rfl
  | tail _ e ih => exact e.kept_eq.trans ih

/-- A fold of operations, each a sequence of effects. -/
theorem Effects.foldl {α : Type} {f : State → α → State} (h : ∀ s a, Effects live s (f s a)) (xs : List α) (s : State) :
    Effects live s (xs.foldl f s) := by
  induction xs generalizing s with
  | nil => exact .refl s
  | cons a xs ih => exact (h s a).trans (ih _)

/-! ## The arbiter -/

/-- Whether scans may start work. -/
def Lives (live : Prop) (s : State) : Prop := s.ttb.run = .running → live

theorem Lives.of_kept (h : Lives live s) (g : t.kept = s.kept) : Lives live t := fun r => h (State.run_of_kept g ▸ r)

theorem Lives.after (h : Lives live s) (e : Effects live s t) : Lives live t := h.of_kept e.kept_eq

/-- One sequence after another, whose scans may start work as the first one's may. -/
theorem Effects.next (e : Effects live s t) (h : Lives live s) (g : Lives live t → Effects live t u) : Effects live s u :=
  e.trans (g (h.after e))

theorem Channel.handOver_live (h : live) (c : Chan) (p : Profile) (o : Owner) : Effects live s (s.handOver c p o) :=
  .one (.channel s c _ (.inl h))

/-- What arming starts; a CHUTE trial's entry is added only to a synchronised tracker's list. -/
theorem State.startWork_effect (h : live) (k : Slot) (t : Trial) (hp : t.target.needsSync = true → s.ltr.trust = .synced) :
    Effects live s (s.startWork k t) := by
  unfold State.startWork
  split
  · rename_i ht
    unfold State.startChute; split
    · exact .one (.entry s _ h (hp (by rw [ht]; rfl)))
    · exact .refl s
  · unfold State.startCoil; split
    · exact Channel.handOver_live h _ _ _
    · exact .refl s
  · unfold State.startEye; split
    · exact .one (.obu s _)
    · exact .refl s
  · unfold State.startDrive; split
    · exact .one (.request s _ true rfl)
    · exact .refl s

/-- The conditions that hold of a trial that arms. -/
theorem State.holdReason_none {a : List Needs} {t : Trial} {n : Needs} (h : s.holdReason a t = none)
    (hn : s.needs t = some n) :
    s.ttb.run = .running ∧ s.vlg.placeFree = true ∧ s.resourceHeld n = false
      ∧ (t.target.needsSync = true → s.ltr.trust = .synced) := by
  unfold State.holdReason at h
  rw [hn] at h
  dsimp only at h
  split at h
  · cases h
  · rename_i hr
    repeat' split at h
    all_goals first
      | (cases h; done)
      | skip
    refine ⟨?_, ?_, ?_, fun hs => ?_⟩
    · cases hrun : s.ttb.run with
      | running => rfl
      | halted c => simp [RunControl.isHalted, hrun] at hr
    · simp_all
    · simp_all
    · rename_i hq _ _ _ _
      cases ht : s.ltr.trust <;> simp_all [State.noPosition]

theorem scanTurn_effects (acc : State × List Needs) (h : Lives live acc.1) (k : Slot) :
    Effects live acc.1 (scanTurn acc k).1 := by
  unfold scanTurn
  split
  · exact .refl _
  · rename_i t ht
    split
    · exact .refl _
    · rename_i hb
      have hb' : t.begun = false := by simpa using hb
      split
      · rename_i hr hn
        obtain ⟨hrun, hp, hf, hs⟩ := State.holdReason_none hr hn
        refine (Effects.one (.take _ k t _ ht hb' (h hrun) hp hf)).trans (State.startWork_effect (h hrun) k t ?_)
        rw [State.ltr_of_kept (State.takeResources_kept _ k t _)]
        exact hs
      · exact .refl _
      · exact .one (.trial _ k t _ ht rfl rfl rfl)
      · exact .one (.trial _ k t _ ht rfl rfl rfl)

/-- An arbiter scan. -/
theorem State.scan_effects (h : Lives live s) : Effects live s s.scan := by
  unfold State.scan
  generalize s.ttb.oldestFirst = ks
  suffices g : ∀ (acc : State × List Needs), Lives live acc.1 → Effects live acc.1 (ks.foldl scanTurn acc).1 from g (s, []) h
  induction ks with
  | nil => intro acc _; exact .refl _
  | cons k ks ih =>
    intro acc ha
    have e := scanTurn_effects acc ha k
    exact e.trans (ih _ (ha.after e))

theorem State.scanIf_effects (h : Lives live s) (b : Bool) : Effects live s (s.scanIf b) := by
  unfold State.scanIf; split
  · exact State.scan_effects h
  · exact .refl s

/-- A continuation before or after the scan that a trace completion causes. -/
theorem State.completionScan_effects (h : Lives live s) (a b : Bool) {k : State → State}
    (hk : ∀ s, Lives live s → Effects live s (k s)) : Effects live s (s.completionScan a b k) := by
  have hc : Effects live s s.choose := .one (.choose s)
  unfold State.completionScan; split
  · split
    · have e := hc.trans (State.scan_effects (h.after hc))
      exact e.trans (hk _ (h.after e))
    · have e := hc.trans (hk _ (h.after hc))
      exact e.trans (State.scan_effects (h.after e))
  · exact hk s h

/-! ## Verdicts, watches and coils -/

theorem State.endWatch_effects (k : Slot) (f : Watch → Watch) : Effects live s (s.endWatch k f) := by
  unfold State.endWatch; split
  · exact .refl s
  · split
    · exact .refl s
    · exact .one (.obu s _)

theorem State.verdictScan_effects (h : Lives live s) (k : Slot) (r : Option Reason) (b : Bool) :
    Effects live s ((s.writeVerdict k r).scanIf b) := by
  have e : Effects live s (s.writeVerdict k r) := .one (.verdict s k r)
  exact e.trans (State.scanIf_effects (h.after e) b)

theorem State.finishIfComplete_effects (h : Lives live s) (k : Slot) (b : Bool) :
    Effects live s (s.finishIfComplete k b) := by
  unfold State.finishIfComplete; split
  · exact State.verdictScan_effects h k none b
  · exact .refl s

theorem State.expireWatch_effects (h : Lives live s) (k : Slot) : Effects live s (s.expireWatch k) := by
  have e : Effects live s (s.endWatch k Watch.expire) := State.endWatch_effects k _
  exact e.trans (State.finishIfComplete_effects (h.after e) k true)

theorem State.openWatchFor_effects (k : Slot) (n : Nat) (i : FireInfo) (r : ChuteRecord) :
    Effects live s (s.openWatchFor k n i r) := by
  unfold State.openWatchFor; split
  · exact .one (.obu s _)
  · exact .one (.obu s _)

theorem State.fire_effects (h : live) (e : FireEntry) (i : FireInfo) : Effects live s (s.fire e i) := by
  unfold State.fire; split
  · exact .refl s
  · rename_i t ht
    split
    · rename_i ha
      have e1 : Effects live s (s.setTrial e.slot (some { t with state := .active })) :=
        .one (.trial s _ t _ ht (by simp [Trial.begun, ha]) rfl rfl)
      dsimp only
      split
      · exact (e1.trans (Channel.handOver_live h _ _ _)).trans (State.openWatchFor_effects _ _ _ _)
      · exact e1
    · exact .refl s

/-- An event on the fire list: work starts only when an entry fires. -/
theorem State.runEntries_effects (h : s.fsc ≠ [] → live) (f : FireEntry → EntryStep) : Effects live s (s.runEntries f) := by
  by_cases hf : s.fsc = []
  · have e : s.runEntries f = s.setFsc [] := by simp [State.runEntries, hf]
    rw [e]; exact .one (.entries s [] (Nat.zero_le _))
  · have e : Effects live s (s.setFsc (s.fsc.filterMap fun e => (f e).kept)) :=
      .one (.entries s _ (List.length_filterMap_le _ _))
    exact e.trans (Effects.foldl (fun s (x : FireEntry × FireInfo) => State.fire_effects (h hf) x.1 x.2) _ _)

theorem Effects.foldl_lives {α : Type} {f : State → α → State} (h : ∀ s a, Lives live s → Effects live s (f s a))
    (xs : List α) (s : State) (hs : Lives live s) : Effects live s (xs.foldl f s) := by
  induction xs generalizing s with
  | nil => exact .refl s
  | cons a xs ih => exact (h s a hs).trans (ih _ (hs.after (h s a hs)))

theorem State.closeEye_effects (h : Lives live s) (k : Slot) (r : Option Reason) (b : Bool) :
    Effects live s (s.closeEye k r b) := by
  unfold State.closeEye; split
  · exact .refl s
  · have e : ∀ o, Effects live s (s.setObu o) := fun o => .one (.obu s o)
    exact (e _).trans (State.verdictScan_effects (h.after (e _)) k r b)

theorem State.moveEyes_effects (h : Lives live s) (d : Int) : Effects live s (s.moveEyes d) := by
  unfold State.moveEyes; dsimp only
  have e : ∀ o, Effects live s (s.setObu o) := fun o => .one (.obu s o)
  split
  · exact (e _).trans (Effects.foldl_lives (fun s k hs => State.closeEye_effects hs k none true) _ _ (h.after (e _)))
  · exact e _

theorem Channel.reported_quiet (c : Channel) (h : c.Quiet) : c.reported.Quiet := h

/-- Coil done. -/
theorem State.coilDone_effects (h : Lives live s) (c : Chan) (e : CoilEnding) (p : Option ChanState) (b : Bool) :
    Effects live s (s.coilDone c e p b) := by
  unfold State.coilDone; split
  · exact .refl s
  · rename_i o _
    split
    · exact .refl s
    · dsimp only
      have e1 : Effects live s (if e = .withdrawn then s else s.setTru (s.tru.complete o.number .ended)) := by
        split
        · exact .refl s
        · exact .one (.tru s _ (by simp))
      have e4 : ∀ (s1 : State), Effects live s s1 → ∀ (v : Vector (Option CoilFigures) 16) (ob : Obu),
          Effects live s (((s1.setTru { s1.tru with results := v }).setChannel c
            ((s1.setTru { s1.tru with results := v }).channel c).reported).setObu ob) := by
        intro s1 h1 v ob
        have h2 : Effects live s (s1.setTru { s1.tru with results := v }) := h1.tail (.tru s1 _ rfl)
        have h3 := h2.tail (.channel _ c ((s1.setTru { s1.tru with results := v }).channel c).reported (.inr (fun q => q)))
        exact h3.tail (.obu _ ob)
      have e5 := e4 _ e1
      refine (e5 _ _).trans (State.completionScan_effects (h.after (e5 _ _)) _ _ ?_)
      exact fun s hs => State.finishIfComplete_effects hs _ _

theorem Channel.trip_quiet (c : Channel) (v : Adc) (t : Time) : (c.trip v t).Quiet := ⟨.inr rfl, rfl⟩

theorem State.tripChannel_effects (h : Lives live s) (c : Chan) (v : Adc) : Effects live s (s.tripChannel c v) := by
  unfold State.tripChannel
  have e : Effects live s (s.setChannel c ((s.channel c).trip v s.T)) :=
    .one (.channel s c _ (.inr fun _ => Channel.trip_quiet _ _ _))
  exact (e.trans (State.coilDone_effects (h.after e) _ _ _ _)).tail (.raise _ _)

/-! ## Ends of trials and the drive link -/

/-- All that the link is after its report, in IDLE: only the trial's hold on it is gone. -/
theorem Dlk.left_idle (d : Dlk) : d.left .idle =
    { d with state := .idle, owner := none, deadline := none, cur := none, next := none, plan := [], stopStarted := false } := rfl

/-- The same in FAULT, where what R165 names is not kept. -/
theorem Dlk.left_fault (d : Dlk) : d.left .fault =
    { d with state := .fault, owner := none, deadline := none, cur := none, next := none, plan := [], stopStarted := false,
             latch := none, faultSeen := false, refused := false, linkError := false, setpointClamped := false,
             releaseFailed := false, lastStatus := none } := rfl

@[simp] theorem Dlk.left_state (d : Dlk) (x : LinkState) : (d.left x).state = x := by
  unfold Dlk.left; dsimp only; split <;> rfl

@[simp] theorem Dlk.left_owner (d : Dlk) (x : LinkState) : (d.left x).owner = none := by
  unfold Dlk.left; dsimp only; split <;> rfl

/-- The link leaves for IDLE or FAULT. -/
theorem State.linkLeave_effects (h : Lives live s) (d : Dlk) (x : LinkState) (hx : x.engaged = false) (b : Bool) :
    Effects live s (s.linkLeave d x b) := by
  unfold State.linkLeave; dsimp only
  have e1 : Effects live s ((s.setDlk (d.left x)).assertRequest false) := .one (.request s _ false (by simpa using hx))
  have e2 : Effects live s (if x = .fault then ((s.setDlk (d.left x)).assertRequest false).raise .fault
      else (s.setDlk (d.left x)).assertRequest false) := by
    split
    · exact e1.tail (.raise _ _)
    · exact e1
  split
  · exact e2
  · have e3 := fun o => e2.tail (.obu _ o)
    exact (e3 _).trans (State.verdictScan_effects (h.after (e3 _)) _ _ _)

theorem Dlk.makeReady_state (d : Dlk) (t : Time) (c : DriveCmd) : (d.makeReady t c).state = d.state := by
  unfold Dlk.makeReady; split
  · rfl
  · split <;> rfl

theorem Dlk.formPlan_state (d : Dlk) (t : Time) (p : List DriveCmd) : (d.formPlan t p).state = .releasing := by
  unfold Dlk.formPlan; dsimp only; split
  · rfl
  · rw [Dlk.makeReady_state]

theorem Dlk.advance_state (d : Dlk) (t : Time) : (d.advance t).state = d.state := by
  unfold Dlk.advance; split
  · rfl
  · split
    · rfl
    · split
      · split <;> rfl
      · rfl

theorem Dlk.onDriveFault_engaged (d : Dlk) (t : Time) : (d.onDriveFault t).state.engaged = d.state.engaged := by
  unfold Dlk.onDriveFault; split
  · rename_i h; rw [Dlk.formPlan_state, h]; rfl
  · rw [Dlk.advance_state]; rfl

theorem Dlk.tellStop_state (d : Dlk) : d.tellStop.state = d.state := by unfold Dlk.tellStop; split <;> rfl

/-- An answer leaves the link engaged as it was, or makes it leave for IDLE or FAULT. -/
theorem Dlk.exchangeEnd_cases (d : Dlk) (t : Time) (a b c e : Byte) :
    (∃ d', d.exchangeEnd t a b c e = .stay d' ∧ d'.state.engaged = d.state.engaged)
      ∨ ∃ d' x, d.exchangeEnd t a b c e = .leave d' x ∧ x.engaged = false := by
  unfold Dlk.exchangeEnd; split
  · exact .inl ⟨_, rfl, rfl⟩
  · dsimp only
    split
    · unfold Dlk.answerStep Dlk.fail; split
      · exact .inr ⟨_, _, rfl, rfl⟩
      · dsimp only; split
        · refine .inl ⟨_, rfl, ?_⟩; rw [Dlk.onDriveFault_engaged]; split <;> rfl
        · split
          · rename_i h; refine .inl ⟨_, rfl, ?_⟩; rw [Dlk.formPlan_state, h.2]; rfl
          · refine .inl ⟨_, rfl, ?_⟩; rw [Dlk.advance_state]; split <;> rfl
    · unfold Dlk.answerQuery Dlk.fail; split
      · split
        · refine .inl ⟨_, rfl, ?_⟩; rw [Dlk.onDriveFault_engaged]
        · refine .inl ⟨_, rfl, ?_⟩; rw [Dlk.advance_state]
      · split
        · exact .inr ⟨_, _, rfl, rfl⟩
        · refine .inl ⟨_, rfl, ?_⟩; rw [Dlk.advance_state]
    · unfold Dlk.answerPlan Dlk.fail; split
      · exact .inr ⟨_, _, rfl, rfl⟩
      · split
        · refine .inl ⟨_, rfl, ?_⟩; rw [Dlk.onDriveFault_engaged]
        · refine .inl ⟨_, rfl, ?_⟩; rw [Dlk.advance_state]
    · unfold Dlk.answerPlan Dlk.fail; split
      · exact .inr ⟨_, _, rfl, rfl⟩
      · split
        · refine .inl ⟨_, rfl, ?_⟩; rw [Dlk.onDriveFault_engaged]
        · refine .inl ⟨_, rfl, ?_⟩; rw [Dlk.advance_state]
    · unfold Dlk.answerRelease; split
      · exact .inr ⟨_, _, rfl, rfl⟩
      · exact .inr ⟨_, _, rfl, rfl⟩

theorem State.exchangeEnd_effects (h : Lives live s) (a b c e : Byte) :
    Effects live s (s.linkStep (s.dlk.exchangeEnd s.T a b c e)) := by
  obtain ⟨d, hd, hs⟩ | ⟨d, x, hd, hs⟩ := s.dlk.exchangeEnd_cases s.T a b c e
  · rw [hd]; exact .one (.link s d hs)
  · rw [hd]; exact State.linkLeave_effects h d x hs true

theorem State.linkCancel_effects (h : Lives live s) (b : Bool) : Effects live s (s.linkCancel b) := by
  unfold State.linkCancel; split
  · exact State.linkLeave_effects h _ _ rfl b
  · rename_i hs; exact .one (.link s _ (by rw [Dlk.formPlan_state, hs]; rfl))
  all_goals exact .refl s

theorem State.linkHalt_effects (h : Lives live s) (c : HaltCause) : Effects live s (s.linkHalt c) := by
  unfold State.linkHalt; split
  · exact State.linkLeave_effects h _ _ rfl true
  · rename_i hs; exact .one (.link s _ (by rw [Dlk.formPlan_state, hs]; rfl))
  · split
    · exact .one (.link s _ (by rw [Dlk.tellStop_state]))
    · exact .refl s
  all_goals exact .refl s

theorem State.busyEdge_effects (h : Lives live s) : Effects live s s.busyEdge := by
  unfold State.busyEdge; split
  · exact .one (.link s _ rfl)
  · exact State.linkLeave_effects h _ _ rfl true
  · exact State.linkLeave_effects h _ _ rfl true
  all_goals exact .refl s

/-- The deadline is judged only in CHECKING. -/
theorem State.checkDue_effects (h : Lives live s) (hc : s.dlk.state = .checking) : Effects live s s.checkDue := by
  unfold State.checkDue; split
  · exact State.linkLeave_effects h _ _ rfl true
  · refine .one (.link s _ ?_)
    unfold Dlk.own; split
    · rfl
    · rw [Dlk.makeReady_state, hc]; rfl

theorem Dlk.window_engaged (d : Dlk) (t : Time) (v : Nat) : (d.window t v).state.engaged = d.state.engaged := by
  unfold Dlk.window; split
  · rename_i hs _ _; dsimp only; split
    · rw [Dlk.makeReady_state]
    · rw [Dlk.formPlan_state, hs]; rfl
  · rfl

theorem State.endArmed_effects (h : Lives live s) (k : Slot) (r : Option Reason) (c : TraceCause) (b : Bool) :
    Effects live s (s.endArmed k r c b) := by
  unfold State.endArmed; split
  · exact .refl s
  · split
    · have e : ∀ u, u.kept = s.tru.kept → Effects live s (s.setTru u) := fun u hu => .one (.tru s u hu)
      refine (e _ (by simp)).trans (State.completionScan_effects (h.after (e _ (by simp))) _ _ ?_)
      exact fun s hs => State.verdictScan_effects hs k r b
    · exact .refl s

theorem State.setEnd_effects (k : Slot) (x : TrialEnd) : Effects live s (s.setEnd k x) := by
  unfold State.setEnd; split
  · exact .refl s
  · rename_i t ht; split
    · exact .refl s
    · exact .one (.trial s k t _ ht rfl rfl rfl)

theorem State.abortPositions_effects (h : Lives live s) (r : Reason) : Effects live s (s.abortPositions r) := by
  have h1 : ∀ (ks : List Slot) (s : State), Lives live s →
      Effects live s (ks.foldl (fun s k => s.endArmed k (some r) .removed true) s) :=
    fun ks s hs => Effects.foldl_lives (fun s k hs => State.endArmed_effects hs k _ _ _) ks s hs
  have h2 : ∀ (ks : List Slot) (s : State), Lives live s →
      Effects live s (ks.foldl (fun s k => s.closeEye k (some r) true) s) :=
    fun ks s hs => Effects.foldl_lives (fun s k hs => State.closeEye_effects hs k _ _) ks s hs
  have e0 : Effects live s (s.setFsc []) := .one (.entries s [] (Nat.zero_le _))
  have ec : Effects live s (s.setFsc []).choose := e0.tail (.choose _)
  unfold State.abortPositions; dsimp only
  split
  · exact e0.next h fun h0 => (h1 _ _ h0).next h0 fun h0 => h2 _ _ h0
  · split
    · exact ec.next h fun h0 => (h2 _ _ h0).next h0 fun h0 => h1 _ _ h0
    · exact ec.next h fun h0 => (h1 _ _ h0).next h0 fun h0 => h2 _ _ h0

/-! ## Halts -/

theorem Channel.force_quiet (c : Channel) (h : c.state ≠ .fault) : c.force.Quiet := by
  unfold Channel.force; rw [if_neg h]; exact ⟨.inl rfl, rfl⟩

theorem Channel.force_keeps_quiet (c : Channel) (h : c.Quiet) : c.force.Quiet := by
  unfold Channel.force; split
  · exact h
  · exact ⟨.inl rfl, rfl⟩

theorem State.forceStop_effects (h : Lives live s) (c : Chan) : Effects live s (s.forceStop c) := by
  have e : Effects live s (s.setChannel c (s.channel c).force) :=
    .one (.channel s c _ (.inr (Channel.force_keeps_quiet _)))
  unfold State.forceStop; dsimp only; split
  · exact e.trans (State.coilDone_effects (h.after e) _ _ _ _)
  · split
    · exact e.trans (State.coilDone_effects (h.after e) _ _ _ _)
    · exact .refl s

theorem State.haltCoil_effects (h : Lives live s) (k : Slot) (t : Trial) (c : HaltCause) :
    Effects live s (s.haltCoil k t c) := by
  have e1 : Effects live s (s.setEnd k (.aborted c)) := State.setEnd_effects k _
  have e2 : Effects live s ((s.setEnd k (.aborted c)).setTru (s.tru.complete t.number .halted)) := by
    refine e1.tail (.tru _ _ ?_)
    rw [Tru.complete_kept]; exact congrArg State.tru (s.setEnd_kept k (.aborted c)).symm
  have e3 := e2.trans (State.endWatch_effects (live := live) k Watch.stop)
  unfold State.haltCoil; dsimp only
  split
  · rename_i c' _
    have e4 := e3.trans (State.forceStop_effects (h.after e3) c')
    have e5 := e4.tail (.verdict _ k none)
    exact e5.trans (State.scan_effects (h.after e5))
  · have e5 := e3.tail (.verdict _ k none)
    exact e5.trans (State.scan_effects (h.after e5))

theorem haltOne_effects (h : Lives live s) (c : HaltCause) (k : Slot) : Effects live s (haltOne c s k) := by
  unfold haltOne; split
  · exact .refl s
  · rename_i t ht
    have e1 : Effects live s (s.setEnd k (.aborted c)) := State.setEnd_effects k _
    split
    · exact .one (.trial s k t _ ht rfl rfl rfl)
    · exact e1.trans (State.endArmed_effects (h.after e1) _ _ _ _)
    · split
      · exact State.haltCoil_effects h k t c
      · exact State.haltCoil_effects h k t c
      · exact e1.trans (State.closeEye_effects (h.after e1) _ _ _)
      · exact e1.trans (State.linkHalt_effects (h.after e1) c)

/-- Every channel is quiet after it is silenced. -/
theorem Channel.silence_quiet (c : Channel) : c.silence.Quiet := by
  unfold Channel.silence; split
  · rename_i h; exact ⟨.inr h, rfl⟩
  · rename_i h; split
    · exact Channel.force_quiet c h
    · rename_i g
      simp only [not_or, Bool.not_eq_true] at g
      refine ⟨?_, g.1⟩
      cases hc : c.state <;> simp_all [ChanState.running]

/-! ## Cancels -/

theorem Channel.cancel_quiet (c : Channel) (h : c.Quiet) : c.cancel.Quiet := by
  unfold Channel.cancel; split
  · exact ⟨h.1, rfl⟩
  · split <;> exact h

theorem State.cancelChannel_effects (h : Lives live s) (c : Chan) (b : Bool) : Effects live s (s.cancelChannel c b) := by
  have e : Effects live s (s.setChannel c (s.channel c).cancel) :=
    .one (.channel s c _ (.inr (Channel.cancel_quiet _)))
  unfold State.cancelChannel; dsimp only; split
  · exact e.trans (State.coilDone_effects (h.after e) _ _ _ _)
  · exact e

theorem State.cancelCoil_effects (h : Lives live s) (k : Slot) (t : Trial) (b : Bool) :
    Effects live s (s.cancelCoil k t b) := by
  have e1 : Effects live s (s.endWatch k Watch.stop) := State.endWatch_effects k _
  have e2 := e1.tail (.tru _ ((s.endWatch k Watch.stop).tru.complete t.number .cancelled) (by simp))
  unfold State.cancelCoil
  refine e2.trans (State.completionScan_effects (h.after e2) _ _ ?_)
  intro s hs
  split
  · rename_i c _
    have e := State.cancelChannel_effects hs c b
    exact e.trans (State.finishIfComplete_effects (hs.after e) k b)
  · exact State.finishIfComplete_effects hs k b

theorem State.cancelSlot_effects (h : Lives live s) (k : Slot) (b : Bool) : Effects live s (s.cancelSlot k b).1 := by
  have e1 : ∀ x, Effects live s (s.setEnd k x) := State.setEnd_effects k
  unfold State.cancelSlot; split
  · exact .refl s
  · rename_i t ht
    split
    · rename_i hl
      have e : Effects live s (s.setTtb (s.ttb.empty k t.held)) := .one (.drop s k t ht (by simp [Trial.begun, hl]))
      exact e.trans (State.scanIf_effects (h.after e) b)
    · have e := (e1 .cancelled).tail (.entries _ ((s.setEnd k .cancelled).fsc.filter fun e => decide (e.slot ≠ k))
        (List.length_filter_le _ _))
      exact e.trans (State.endArmed_effects (h.after e) _ _ _ _)
    · split
      · exact .refl s
      · have hs := h.after (e1 .cancelled)
        dsimp only
        split
        · exact (e1 _).trans (State.cancelCoil_effects hs k t b)
        · exact (e1 _).trans (State.cancelCoil_effects hs k t b)
        · exact (e1 _).trans (State.closeEye_effects hs k none b)
        · exact (e1 _).trans (State.linkCancel_effects hs b)

theorem State.cancelAll_effects (h : Lives live s) : Effects live s s.cancelAll.1 := by
  unfold State.cancelAll
  generalize s.ttb.oldestFirst = ks
  suffices g : ∀ (acc : State × CancelCounts), Lives live acc.1 → Effects live acc.1
      (ks.foldl (fun acc k => ((acc.1.cancelSlot k false).1, acc.2.add (acc.1.cancelSlot k false).2)) acc).1 from g (s, _) h
  induction ks with
  | nil => intro acc _; exact .refl _
  | cons k ks ih =>
    intro acc ha
    have e := State.cancelSlot_effects ha k false
    exact e.trans (ih ((acc.1.cancelSlot k false).1, acc.2.add (acc.1.cancelSlot k false).2) (ha.after e))

/-! ## Events -/

theorem State.trackChanged_effects (h : Lives live s) : Effects live s s.trackChanged := by
  have e : Effects live s (s.raise .track) := .one (.raise s _)
  exact e.trans (State.scan_effects (h.after e))

/-- An entry into LOST, after the tracker's own change. -/
theorem State.lose_effects (h : Lives live s) : Effects live (s.setLtr s.ltr.lose) s.lose := by
  have h0 : Lives live (s.setLtr s.ltr.lose) := h
  have e : Effects live (s.setLtr s.ltr.lose) ((s.setLtr s.ltr.lose).raise .track) := .one (.raise _ _)
  have e2 := e.trans (State.abortPositions_effects (h0.after e) .positionLost)
  exact e2.trans (State.scan_effects (h0.after e2))

theorem State.eyeEdge_effects (l : LineNo) (a : Bool) (r : Time) (g : Nat) : Effects live s (s.eyeEdge l a r g) := by
  unfold State.eyeEdge; split
  · exact .refl s
  · split
    · exact .one (.obu s _)
    · exact .one (.obu s _)
    · exact .refl s

/-- The end of a scan conversion, after the scan has moved on. -/
theorem State.deliverSample_effects {c : Chan} {v : Adc} {rest : List (Chan × Adc)} (h : Lives live s)
    (hs : s.tru.scanList = (c, v) :: rest) :
    Effects live (s.setTru { s.tru with scanList := rest, converted := s.tru.converted + 1 }) s.deliverSample := by
  have h1 : Lives live (s.setTru { s.tru with scanList := rest, converted := s.tru.converted + 1 }) := h
  simp only [State.deliverSample, hs]
  split
  · split
    · exact State.tripChannel_effects h1 c v
    · exact .refl _
  · have e : ∀ u : Tru, u.kept = Tru.kept { s.tru with scanList := rest, converted := s.tru.converted + 1 } →
        Effects live (s.setTru { s.tru with scanList := rest, converted := s.tru.converted + 1 })
          ((s.setTru { s.tru with scanList := rest, converted := s.tru.converted + 1 }).setTru u) :=
      fun u hu => .one (.tru _ u hu)
    split
    · exact (e _ (Tru.appendTo_kept ..)).next h1 fun h2 =>
        State.completionScan_effects h2 _ _ fun s hs => State.tripChannel_effects hs c v
    · exact (e _ (Tru.appendTo_kept ..)).next h1 fun h2 => State.scanIf_effects h2 _

/-- The state in which a PWM boundary has moved every channel, before the coil dones of the profiles that end at it. -/
def State.boundaryMoved (s : State) : State :=
  (s.setCdu { channels := s.cdu.channels.map fun c => (c.boundary s.T).1, periodStart := s.T }).setTru
    { startTraces s.tru s.cdu.channels s.T with scanBegun := false }

/-- A PWM boundary after every channel has moved. -/
theorem State.boundary_effects (h : Lives live s) : Effects live s.boundaryMoved s.boundary := by
  have h1 : Lives live s.boundaryMoved := h
  have hd : ∀ (ks : List Chan) (x : State), Lives live x →
      Effects live x (ks.foldl (fun s c => s.coilDone c .complete none true) x) :=
    fun ks x hx => Effects.foldl_lives (fun s c hs => State.coilDone_effects hs c _ _ _) ks x hx
  have hn : ∀ (n : Nat) (x : State), Effects live x { x with choices := x.choices + n } := by
    intro n
    induction n with
    | zero => intro x; exact .refl x
    | succ n ih =>
      intro x
      have e := (ih x).tail (.choose _)
      exact e
  unfold State.boundary; dsimp only
  split
  · exact hd _ _ h1
  · exact (hn _ s.boundaryMoved).next h1 fun h2 => hd _ _ h2

/-- The entry into HALTED before its trials are dealt with: run control, the HALT flag, the safe levels, no fire entry. -/
def State.haltEntered (s : State) (c : HaltCause) : State :=
  (((s.setTtb { s.ttb with run := .halted c }).raise .halt).setLmx s.lmx.applySafe).setFsc []

/-- The trials dealt with on the entry into HALTED, and then every channel silenced. -/
theorem State.enterHalted_effects (h : Lives live (s.haltEntered c)) :
    ∃ x, Effects live (s.haltEntered c) x
      ∧ s.enterHalted c = x.setCdu { x.cdu with channels := x.cdu.channels.map Channel.silence } := by
  exact ⟨_, Effects.foldl_lives (fun s k hs => haltOne_effects hs c k) _ _ h, rfl⟩

/-- A STOP while HALTED, after the cause has changed. -/
theorem State.stopWhileHalted_effects :
    Effects live (s.setTtb { s.ttb with run := .halted .stop }) s.stopWhileHalted := by
  unfold State.stopWhileHalted; dsimp only
  split
  · rename_i o _ _
    have e : Effects live (s.setTtb { s.ttb with run := .halted .stop })
        ((s.setTtb { s.ttb with run := .halted .stop }).setDlk s.dlk.tellStop) :=
      .one (.link _ _ (by rw [Dlk.tellStop_state]; rfl))
    split
    · rename_i t ht
      split
      · exact e.tail (.trial _ _ t _ ht rfl rfl rfl)
      · exact e
      · exact e
    · exact e
  · exact .refl _

end Sys2Proof.Machine
end

