-- ==== Sys2Proof/Laws/HostLink.lean ====
section
/-! SUPPORT. What serving, the transmitter and the hunter can do, said once each. -/

namespace Sys2Proof.Machine

/-! ## The transmitter -/

variable (s : State)

/-- The transmitter changes the host link alone. -/
theorem State.kick_eq : s.kick = s.setHlk s.kick.hlk := by
  have h : s.takeItem = s.setHlk s.takeItem.hlk := by
    unfold State.takeItem
    split
    · rfl
    · split
      · rfl
      · split <;> rfl
  unfold State.kick; split
  · exact h
  · rfl

@[simp] theorem State.kick_T : s.kick.T = s.T := by rw [State.kick_eq]; rfl
@[simp] theorem State.kick_ltr : s.kick.ltr = s.ltr := by rw [State.kick_eq]; rfl
@[simp] theorem State.kick_lmx : s.kick.lmx = s.lmx := by rw [State.kick_eq]; rfl
@[simp] theorem State.kick_zmr : s.kick.zmr = s.zmr := by rw [State.kick_eq]; rfl
@[simp] theorem State.kick_ttb : s.kick.ttb = s.ttb := by rw [State.kick_eq]; rfl
@[simp] theorem State.kick_fsc : s.kick.fsc = s.fsc := by rw [State.kick_eq]; rfl
@[simp] theorem State.kick_cdu : s.kick.cdu = s.cdu := by rw [State.kick_eq]; rfl
@[simp] theorem State.kick_tru : s.kick.tru = s.tru := by rw [State.kick_eq]; rfl
@[simp] theorem State.kick_obu : s.kick.obu = s.obu := by rw [State.kick_eq]; rfl
@[simp] theorem State.kick_dlk : s.kick.dlk = s.dlk := by rw [State.kick_eq]; rfl
@[simp] theorem State.kick_vlg : s.kick.vlg = s.vlg := by rw [State.kick_eq]; rfl
@[simp] theorem State.kick_choices : s.kick.choices = s.choices := by rw [State.kick_eq]; rfl
@[simp] theorem State.kick_pending : s.kick.pending = s.pending := by rw [State.kick_eq]; rfl

/-- Of the host link, the transmitter takes from the busy list, the reply slot and the pending notices alone. -/
theorem State.kick_hlk :
    s.kick.hlk.strap = s.hlk.strap ∧ s.kick.hlk.held = s.hlk.held ∧ s.kick.hlk.queue = s.hlk.queue
      ∧ s.kick.hlk.handler = s.hlk.handler ∧ s.kick.hlk.flags = s.hlk.flags ∧ s.kick.hlk.overrun = s.hlk.overrun
      ∧ s.kick.hlk.subs = s.hlk.subs ∧ s.kick.hlk.busy <:+ s.hlk.busy := by
  have h : s.takeItem.hlk.strap = s.hlk.strap ∧ s.takeItem.hlk.held = s.hlk.held ∧ s.takeItem.hlk.queue = s.hlk.queue
      ∧ s.takeItem.hlk.handler = s.hlk.handler ∧ s.takeItem.hlk.flags = s.hlk.flags
      ∧ s.takeItem.hlk.overrun = s.hlk.overrun ∧ s.takeItem.hlk.subs = s.hlk.subs
      ∧ s.takeItem.hlk.busy <:+ s.hlk.busy := by
    unfold State.takeItem
    split
    · rename_i x rest hb
      exact ⟨rfl, rfl, rfl, rfl, rfl, rfl, rfl, by rw [hb]; exact List.suffix_cons x rest⟩
    · split
      · exact ⟨rfl, rfl, rfl, rfl, rfl, rfl, rfl, List.suffix_refl _⟩
      · split <;> exact ⟨rfl, rfl, rfl, rfl, rfl, rfl, rfl, List.suffix_refl _⟩
  unfold State.kick; split
  · exact h
  · exact ⟨rfl, rfl, rfl, rfl, rfl, rfl, rfl, List.suffix_refl _⟩

/-! ## Events and requests -/

variable {s}

/-- An event that is due has its effect and then the transmitter its turn; one that is not due changes nothing. -/
theorem timed_next {due : State → Bool} {effect : State → State} {dt : Time} {t : State}
    (h : timed due effect dt s = .next t) :
    t = s ∨ (due (s.after dt) = true ∧ t = (effect (s.after dt)).kick) := by
  unfold timed at h; split at h
  · rename_i hd; injection h with h; exact .inr ⟨hd, h.symm⟩
  · injection h with h; exact .inl h.symm

/-- The request a free handler finds at the head of its queue. -/
theorem Hlk.nextRequest_some {h : Hlk} {f : Frame} {rest : List Frame} (hn : h.nextRequest = some (f, rest)) :
    h.handler = .idle ∧ h.reply = none ∧ h.resetPhase = .off ∧ h.queue = f :: rest := by
  unfold Hlk.nextRequest at hn
  split at hn
  · rename_i h1 h2 h3 h4; injection hn with hn; injection hn with ha hb; subst ha hb; exact ⟨h1, h2, h3, h4⟩
  · cases hn

/-- A free handler finds the head of its queue. -/
theorem State.Serves.nextRequest {f : Frame} {rest : List Frame} (h : s.Serves f rest) :
    s.hlk.nextRequest = some (f, rest) := by
  obtain ⟨h1, h2, h3, h4⟩ := h
  simp [Hlk.nextRequest, h1, h2, h3, h4]

/-- Serving a request places the block's answer and then gives the transmitter its turn. -/
theorem serve_next {kind : Byte} {len : Nat} {block : List Byte → State → Answer} {dt : Time} {t : State}
    (h : serve kind len block dt s = .next t) :
    t = s ∨ ∃ f rest, (s.after dt).hlk.nextRequest = some (f, rest) ∧ f.kind = kind
      ∧ t = (((s.after dt).taken rest).answer f
          (if f.payload.length = len then block f.payload ((s.after dt).taken rest) else .refused .badLength)).kick := by
  unfold serve at h
  dsimp only at h
  split at h
  · injection h with h; exact .inl h.symm
  · rename_i f rest hn
    split at h
    · rename_i hk; injection h with h; exact .inr ⟨f, rest, hn, hk, h.symm⟩
    · injection h with h; exact .inl h.symm

/-- A request with the right kind and length, found by a free handler, is served. -/
theorem serve_serves {kind : Byte} {len : Nat} {block : List Byte → State → Answer} {dt : Time} {f : Frame}
    {rest : List Frame} (h : s.Serves f rest) (hk : f.kind = kind) (hl : f.payload.length = len) :
    serve kind len block dt s = .next ((s.serving dt rest).answer f (block f.payload (s.serving dt rest))).kick := by
  simp [serve, h.nextRequest, hk, hl, State.serving]

/-! ## The hunter -/

/-- Bytes that a frame in progress still holds are at most 245. -/
theorem parseFrame_more {bs : List Byte} (h : parseFrame bs = .more) : bs.length ≤ 245 := by
  unfold parseFrame at h
  split at h
  · rename_i x len rest
    split at h
    · cases h
    · split at h
      · split at h
        · rename_i hl _ _ _ _ hb; simp only [List.length_cons]; omega
        · split at h <;> cases h
      · simp
      · simp
  · simp
  · simp

/-- The bytes the hunter holds after an examination are at most 245. -/
theorem hunt_held (flush : Bool) (n : Nat) (bs : List (Byte × Time)) : (hunt flush n bs).2.length ≤ 245 := by
  induction bs generalizing n with
  | nil => cases n <;> simp [hunt]
  | cons x rest ih =>
    cases n with
    | succ n => simpa [hunt] using ih n
    | zero =>
      unfold hunt
      split
      · split
        · exact ih _
        · exact ih _
        · rename_i hp
          split
          · exact ih _
          · have := parseFrame_more hp; simpa using this
      · exact ih _

theorem Hlk.accept_held (h : Hlk) (f : Frame) : (h.accept f).held = h.held := by
  unfold Hlk.accept; split
  · rfl
  · split <;> rfl

theorem Hlk.examined_held (h : Hlk) (r : List Frame × List (Byte × Time)) : (h.examined r).held = r.2 := by
  unfold Hlk.examined
  have g : ∀ (fs : List Frame) (h : Hlk), (fs.foldl Hlk.accept h).held = h.held := by
    intro fs
    induction fs with
    | nil => intro h; rfl
    | cons f fs ih => intro h; rw [List.foldl_cons, ih, Hlk.accept_held]
  rw [g]

/-- The queue of 4 and the busy list of 8 are never exceeded. -/
theorem Hlk.accept_bounds (h : Hlk) (f : Frame) (hq : h.queue.length ≤ 4) (hb : h.busy.length ≤ 8) :
    (h.accept f).queue.length ≤ 4 ∧ (h.accept f).busy.length ≤ 8 := by
  unfold Hlk.accept; split
  · exact ⟨by simp; omega, hb⟩
  · split
    · exact ⟨hq, by simp; omega⟩
    · exact ⟨hq, hb⟩

theorem Hlk.examined_bounds (h : Hlk) (r : List Frame × List (Byte × Time)) (hq : h.queue.length ≤ 4)
    (hb : h.busy.length ≤ 8) : (h.examined r).queue.length ≤ 4 ∧ (h.examined r).busy.length ≤ 8 := by
  unfold Hlk.examined
  have g : ∀ (fs : List Frame) (h : Hlk), h.queue.length ≤ 4 → h.busy.length ≤ 8 →
      (fs.foldl Hlk.accept h).queue.length ≤ 4 ∧ (fs.foldl Hlk.accept h).busy.length ≤ 8 := by
    intro fs
    induction fs with
    | nil => intro h a b; exact ⟨a, b⟩
    | cons f fs ih => intro h a b; exact ih _ (h.accept_bounds f a b).1 (h.accept_bounds f a b).2
  exact g _ _ hq hb

/-! ## The re-examination of held bytes -/

theorem beBytes_two_value (hi lo : Byte) : beBytes 2 (hi.toNat * 256 + lo.toNat) = [hi, lo] := by
  have h1 := hi.isLt; have h2 := lo.isLt
  simp only [beBytes, List.cons.injEq, and_true]
  refine ⟨?_, ?_⟩ <;> (apply BitVec.eq_of_toNat_eq; simp; omega)

/-- A part of a frame is not a whole one. -/
theorem PartFrame.not_whole {bs : List Byte} (h : PartFrame bs) : ¬WholeFrame bs := by
  rintro ⟨g, more, hg, rfl⟩
  rcases h with h | ⟨len, rest, h, hl, hr⟩
  · simp [Frame.bytes] at h
  · simp only [Frame.bytes, List.cons_append, List.cons.injEq, true_and] at h
    obtain ⟨h1, h2⟩ := h
    subst h1
    have := congrArg List.length h2
    simp [beBytes] at this
    simp at hr
    omega

/-- What the frame that begins with a start byte comes to: a part of a frame, a whole one, or neither. -/
theorem parseFrame_spec (tail : List Byte) :
    match parseFrame (0xC3#8 :: tail) with
    | .more => PartFrame (0xC3#8 :: tail)
    | .discard => ¬WholeFrame (0xC3#8 :: tail) ∧ ¬PartFrame (0xC3#8 :: tail)
    | .frame f n => f.payload.length ≤ 240 ∧ n = f.payload.length + 6 ∧ ∃ more, 0xC3#8 :: tail = f.bytes ++ more := by
  match tail with
  | [] => exact .inl rfl
  | len :: rest =>
    by_cases hlen : 240 < len.toNat
    · simp only [parseFrame, hlen, if_true]
      refine ⟨?_, ?_⟩
      · rintro ⟨g, more, hg, h⟩
        simp only [Frame.bytes, List.cons_append, List.cons.injEq, true_and] at h
        obtain ⟨rfl, -⟩ := h
        simp at hlen; omega
      · rintro (h | ⟨l, r, h, hl, -⟩)
        · simp at h
        · simp only [List.cons.injEq, true_and] at h; obtain ⟨rfl, -⟩ := h; omega
    · match rest with
      | [] => simp only [parseFrame, hlen, if_false]; exact .inr ⟨len, [], rfl, by omega, by simp⟩
      | [k] => simp only [parseFrame, hlen, if_false]; exact .inr ⟨len, [k], rfl, by omega, by simp⟩
      | kind :: tag :: body =>
        simp only [parseFrame, hlen, if_false]
        by_cases hb : body.length < len.toNat + 2
        · simp only [hb, if_true]; exact .inr ⟨len, _, rfl, by omega, by simp; omega⟩
        · simp only [hb, if_false]
          have hpart : ¬PartFrame (0xC3#8 :: len :: kind :: tag :: body) := by
            rintro (h | ⟨l, r, h, hl, hr⟩)
            · simp at h
            · simp only [List.cons.injEq, true_and] at h; obtain ⟨rfl, rfl⟩ := h; simp at hr; omega
          have hp : (body.take len.toNat).length = len.toNat := by simp; omega
          obtain ⟨hi, lo, rest', hd⟩ : ∃ hi lo rest', body.drop len.toNat = hi :: lo :: rest' := by
            match hx : body.drop len.toNat with
            | [] => have := congrArg List.length hx; simp at this; omega
            | [_] => have := congrArg List.length hx; simp at this; omega
            | a :: b :: r => exact ⟨a, b, r, rfl⟩
          have hbody : body = body.take len.toNat ++ hi :: lo :: rest' := by rw [← hd, List.take_append_drop]
          have hv : beValue ((body.drop len.toNat).take 2) = hi.toNat * 256 + lo.toNat := by rw [hd]; simp [beValue]
          rw [hv]
          by_cases hc : hi.toNat * 256 + lo.toNat = (crc16 (len :: kind :: tag :: body.take len.toNat)).toNat
          · rw [if_pos hc]
            refine ⟨by simp; omega, by simp; omega, rest', ?_⟩
            simp only [Frame.bytes, hp, List.cons_append, List.append_assoc]
            rw [show BitVec.ofNat 8 len.toNat = len by simp, ← hc, beBytes_two_value]
            simp only [List.cons_append, List.nil_append]
            rw [← hbody]
          · rw [if_neg hc]
            refine ⟨?_, hpart⟩
            rintro ⟨g, more, hg, h⟩
            simp only [Frame.bytes, List.cons_append, List.cons.injEq, true_and, List.append_assoc] at h
            obtain ⟨hlen', rfl, rfl, h⟩ := h
            have hgl : g.payload.length = len.toNat := by rw [hlen']; simp; omega
            rw [hbody] at h
            obtain ⟨h1, h2⟩ := List.append_inj h (by rw [hp, hgl])
            simp only [beBytes, List.cons_append, List.nil_append, List.cons.injEq] at h2
            obtain ⟨ha, hb', -⟩ := h2
            apply hc
            rw [h1]
            rw [show BitVec.ofNat 8 g.payload.length = len by rw [hgl]; simp] at ha hb'
            rw [ha, hb']
            have := (crc16 (len :: g.kind :: g.tag :: g.payload)).isLt
            simp; omega

/-- With the gap run out the hunter holds nothing after its examination. -/
theorem hunt_flush : ∀ (n : Nat) (xs : List (Byte × Time)), (hunt true n xs).2 = []
  | n, [] => by cases n <;> rfl
  | n + 1, _ :: rest => hunt_flush n rest
  | 0, x :: rest => by
    unfold hunt; split
    · split
      · exact hunt_flush _ rest
      · exact hunt_flush 0 rest
      · exact hunt_flush 0 rest
    · exact hunt_flush 0 rest

/-- The hunter examines bytes as R180 says. -/
theorem hunt_reexamined (late : Bool) : ∀ (n : Nat) (xs : List (Byte × Time)),
    Reexamined late (xs.drop n) (hunt late n xs).1 (hunt late n xs).2
  | n, [] => by cases n <;> exact .done
  | n + 1, _ :: rest => by simpa [hunt] using hunt_reexamined late n rest
  | 0, x :: rest => by
    have ih := hunt_reexamined late 0 rest
    by_cases hx : x.1 = 0xC3#8
    · have hs := parseFrame_spec (rest.map Prod.fst)
      rw [← hx, ← List.map_cons (f := Prod.fst)] at hs
      have hx' : x.1 = startByte := hx
      unfold hunt
      rw [if_pos hx']
      split at hs
      · rename_i hq; rw [hq]
        cases late with
        | true => exact .discarded x rest _ _ hx hs.not_whole (.inl rfl) ih
        | false => exact .held _ rfl hs
      · rename_i hq; rw [hq]; exact .discarded x rest _ _ hx hs.1 (.inr hs.2) ih
      · rename_i f n hq; rw [hq]
        obtain ⟨hf, hn, more, hm⟩ := hs
        have hlen : f.bytes.length = n := by simp [Frame.bytes, beBytes, hn]
        have h1 : ((x :: rest).take n).map Prod.fst = f.bytes := by
          rw [List.map_take, hm, ← hlen, List.take_left]
        have h2 := hunt_reexamined late (n - 1) rest
        have h3 : rest.drop (n - 1) = (x :: rest).drop n := by
          obtain ⟨m, rfl⟩ : ∃ m, n = m + 1 := ⟨_, hn⟩
          rfl
        rw [h3] at h2
        have := Reexamined.complete f _ _ _ _ hf h1 h2
        rwa [List.take_append_drop] at this
    · have : ¬ x.1 = startByte := hx
      unfold hunt; rw [if_neg this]
      exact .dropped x rest _ _ hx ih

end Sys2Proof.Machine
end

