-- ==== Sys2Proof/WellFormed.lean ====
section
/-! DEFINITION. When a command is well-formed: the time it says has passed is a duration the manual's time arithmetic can
tell (Conventions, Time: every duration the controller keeps is shorter than 2^31 µs). The other operands cannot be out of
range: a line, a slot, a sample and a byte each have a type of exactly their values. -/

namespace Sys2Proof

/-- The microseconds a command lets pass before it; a POWER reset sets T itself. -/
def Instr.elapsed : Instr → Time
  | .powerReset _ _ => 0
  | .softReset dt => dt
  | .forwardCount dt => dt
  | .backwardCount dt => dt
  | .illegalTransition dt => dt
  | .windowClose dt => dt
  | .acceptedEdge dt _ => dt
  | .periodBoundary dt => dt
  | .scanStart dt _ => dt
  | .sampleDelivery dt => dt
  | .analogReadConversionEnd dt _ => dt
  | .watchExpiry dt _ => dt
  | .checkDeadline dt => dt
  | .exchangeEnd dt _ _ _ _ => dt
  | .hostByteArrival dt _ _ => dt
  | .gapExpiry dt => dt
  | .frameTransmitEnd dt => dt
  | .identify dt => dt
  | .status dt => dt
  | .subscribe dt => dt
  | .reset dt => dt
  | .setLoop dt => dt
  | .setZone dt => dt
  | .setChute dt => dt
  | .setEye dt => dt
  | .setDrive dt => dt
  | .setLine dt => dt
  | .readLines dt => dt
  | .readAnalog dt => dt
  | .loadTrial dt => dt
  | .cancelTrial dt => dt
  | .cancelAll dt => dt
  | .readTable dt => dt
  | .readLog dt => dt
  | .readTrace dt => dt
  | .halt dt => dt
  | .resume dt => dt
  | .clearChannel dt => dt
  | .linkRestart dt => dt
  | .unknownKind dt => dt
  | .firstDecoderSample dt _ _ => dt
  | .lineSample dt _ _ => dt

/-- A command is well-formed when the time it lets pass is below 2^31 µs. -/
def Instr.wellFormed (i : Instr) : Bool := decide (i.elapsed.toNat < 2 ^ 31)

end Sys2Proof
end

