-- ==== Sys2Proof/Laws/PerInstr.lean ====
section
/-! SUPPORT. What holds of every command as syntax, one lemma per constructor. -/

namespace Sys2Proof.Laws

/-- A command is well-formed exactly when the time it lets pass is shorter than 2^31 µs, and no table word spells it. -/
def Elapsed.Statement (i : Instr) : Prop :=
  (i.wellFormed = true ↔ i.elapsed.toNat < 2 ^ 31) ∧ ∀ nbits w, decodeTableWord nbits w ≠ some i

theorem elapsed_statement (i : Instr) : Elapsed.Statement i :=
  ⟨by simp [Instr.wellFormed], fun _ _ h => by simp [decodeTableWord] at h⟩

theorem Elapsed.powerReset (a b : Level) : Elapsed.Statement (.powerReset a b) := elapsed_statement _
theorem Elapsed.softReset (a : Time) : Elapsed.Statement (.softReset a) := elapsed_statement _
theorem Elapsed.forwardCount (a : Time) : Elapsed.Statement (.forwardCount a) := elapsed_statement _
theorem Elapsed.backwardCount (a : Time) : Elapsed.Statement (.backwardCount a) := elapsed_statement _
theorem Elapsed.illegalTransition (a : Time) : Elapsed.Statement (.illegalTransition a) := elapsed_statement _
theorem Elapsed.windowClose (a : Time) : Elapsed.Statement (.windowClose a) := elapsed_statement _
theorem Elapsed.acceptedEdge (a : Time) (b : LineNo) : Elapsed.Statement (.acceptedEdge a b) := elapsed_statement _
theorem Elapsed.periodBoundary (a : Time) : Elapsed.Statement (.periodBoundary a) := elapsed_statement _
theorem Elapsed.scanStart (a : Time) (b : Vector Adc 16) : Elapsed.Statement (.scanStart a b) := elapsed_statement _
theorem Elapsed.sampleDelivery (a : Time) : Elapsed.Statement (.sampleDelivery a) := elapsed_statement _
theorem Elapsed.analogReadConversionEnd (a : Time) (b : Adc) : Elapsed.Statement (.analogReadConversionEnd a b) := elapsed_statement _
theorem Elapsed.watchExpiry (a : Time) (b : Slot) : Elapsed.Statement (.watchExpiry a b) := elapsed_statement _
theorem Elapsed.checkDeadline (a : Time) : Elapsed.Statement (.checkDeadline a) := elapsed_statement _
theorem Elapsed.exchangeEnd (a : Time) (b c d e : Byte) : Elapsed.Statement (.exchangeEnd a b c d e) := elapsed_statement _
theorem Elapsed.hostByteArrival (a : Time) (b : Byte) (c : Level) : Elapsed.Statement (.hostByteArrival a b c) := elapsed_statement _
theorem Elapsed.gapExpiry (a : Time) : Elapsed.Statement (.gapExpiry a) := elapsed_statement _
theorem Elapsed.frameTransmitEnd (a : Time) : Elapsed.Statement (.frameTransmitEnd a) := elapsed_statement _
theorem Elapsed.identify (a : Time) : Elapsed.Statement (.identify a) := elapsed_statement _
theorem Elapsed.status (a : Time) : Elapsed.Statement (.status a) := elapsed_statement _
theorem Elapsed.subscribe (a : Time) : Elapsed.Statement (.subscribe a) := elapsed_statement _
theorem Elapsed.reset (a : Time) : Elapsed.Statement (.reset a) := elapsed_statement _
theorem Elapsed.setLoop (a : Time) : Elapsed.Statement (.setLoop a) := elapsed_statement _
theorem Elapsed.setZone (a : Time) : Elapsed.Statement (.setZone a) := elapsed_statement _
theorem Elapsed.setChute (a : Time) : Elapsed.Statement (.setChute a) := elapsed_statement _
theorem Elapsed.setEye (a : Time) : Elapsed.Statement (.setEye a) := elapsed_statement _
theorem Elapsed.setDrive (a : Time) : Elapsed.Statement (.setDrive a) := elapsed_statement _
theorem Elapsed.setLine (a : Time) : Elapsed.Statement (.setLine a) := elapsed_statement _
theorem Elapsed.readLines (a : Time) : Elapsed.Statement (.readLines a) := elapsed_statement _
theorem Elapsed.readAnalog (a : Time) : Elapsed.Statement (.readAnalog a) := elapsed_statement _
theorem Elapsed.loadTrial (a : Time) : Elapsed.Statement (.loadTrial a) := elapsed_statement _
theorem Elapsed.cancelTrial (a : Time) : Elapsed.Statement (.cancelTrial a) := elapsed_statement _
theorem Elapsed.cancelAll (a : Time) : Elapsed.Statement (.cancelAll a) := elapsed_statement _
theorem Elapsed.readTable (a : Time) : Elapsed.Statement (.readTable a) := elapsed_statement _
theorem Elapsed.readLog (a : Time) : Elapsed.Statement (.readLog a) := elapsed_statement _
theorem Elapsed.readTrace (a : Time) : Elapsed.Statement (.readTrace a) := elapsed_statement _
theorem Elapsed.halt (a : Time) : Elapsed.Statement (.halt a) := elapsed_statement _
theorem Elapsed.resume (a : Time) : Elapsed.Statement (.resume a) := elapsed_statement _
theorem Elapsed.clearChannel (a : Time) : Elapsed.Statement (.clearChannel a) := elapsed_statement _
theorem Elapsed.linkRestart (a : Time) : Elapsed.Statement (.linkRestart a) := elapsed_statement _
theorem Elapsed.unknownKind (a : Time) : Elapsed.Statement (.unknownKind a) := elapsed_statement _
theorem Elapsed.firstDecoderSample (a : Time) (b c : Level) : Elapsed.Statement (.firstDecoderSample a b c) := elapsed_statement _
theorem Elapsed.lineSample (a : Time) (b : LineNo) (c : Level) : Elapsed.Statement (.lineSample a b c) := elapsed_statement _

end Sys2Proof.Laws
end

