-- ==== Sys2Proof/Laws/Scan.lean ====
section
/-! SUPPORT. What the arbiter's hold reason and its scan can do, said once each (R60, R61). -/

namespace Sys2Proof.Machine

variable {s : State}

theorem startWork_ttb (k : Slot) (t : Trial) : (s.startWork k t).ttb = s.ttb := by
  unfold State.startWork
  split
  · unfold State.startChute; split <;> rfl
  · unfold State.startCoil; split <;> rfl
  · unfold State.startEye; split <;> rfl
  · unfold State.startDrive; split <;> rfl

theorem takeResources_slots (k : Slot) (t : Trial) (n : Needs) :
    (s.takeResources k t n).ttb.slots
      = s.ttb.slots.set k (some (t.armed s.T n (if n.trace then s.tru.grantChoice else none))) := by
  unfold State.takeResources State.grantTrace
  simp only
  split
  · split <;> rfl
  · split <;> rfl
  · rfl

theorem arm_trial {k j : Slot} (t : Trial) (n : Needs) (h : j ≠ k) : (s.arm k t n).trial j = s.trial j := by
  unfold State.arm State.trial
  rw [startWork_ttb, takeResources_slots]
  exact Vector.getElem_set_ne _ _ (fun e => h (Fin.ext e.symm))

variable {t : Trial} {n : Needs} {earlier : List Slot}

theorem bars_halted : s.Bars earlier t .halted ↔ s.ttb.run.isHalted = true := by
  simp only [State.Bars]
  cases s.ttb.run <;> simp [RunControl.isHalted]

theorem bars_setup (h : s.needs t = some n) :
    s.Bars earlier t .setup ↔ (!s.eyeReady t.target || !s.traceReady t.target || !s.linesReady t.target) = true := by
  simp only [State.Bars, h, reduceCtorEq, false_or, Option.some.injEq]
  unfold State.needs at h
  cases ht : t.target with
  | chute c tray =>
    simp only [ht] at h
    cases hx : s.zmr.chuteRecord c with
    | none => simp [hx] at h
    | some x =>
      simp only [hx, Option.some.injEq] at h; subst h
      simp only [State.eyeReady, hx, State.traceReady, State.linesReady, Target.kind, State.holdsEye]
      cases x.2.eyeLine <;> simp
  | coil c =>
    simp only [ht] at h
    cases hx : s.zmr.chuteRecord c with
    | none => simp [hx] at h
    | some x =>
      simp only [hx, Option.some.injEq] at h; subst h
      simp [State.eyeReady, hx, State.traceReady, State.linesReady, Target.kind]
      constructor
      · rintro ⟨_, _, h, h'⟩; subst h; exact h'
      · intro h; exact ⟨_, _, rfl, h⟩
  | eye r =>
    simp only [ht] at h
    cases hx : s.zmr.eyes[r] with
    | none => simp [hx] at h
    | some x =>
      simp only [hx, Option.some.injEq] at h; subst h
      simp only [State.eyeReady, hx, State.traceReady, State.linesReady, Target.kind, State.holdsEye]
      simp
  | drive r a b d =>
    simp only [ht] at h
    cases hx : s.zmr.drives[r] with
    | none => simp [hx] at h
    | some x =>
      simp only [hx, Option.some.injEq] at h; subst h
      simp only [State.eyeReady, State.traceReady, State.linesReady, Target.kind]
      cases s.lmx.requestHolder <;> cases s.lmx.busyHolder <;> simp

theorem needs_exists (h : s.needs t = some n) (P : Needs → Prop) : (∃ m, s.needs t = some m ∧ P m) ↔ P n := by simp [h]

theorem bars_channelFault (h : s.needs t = some n) : s.Bars earlier t .channelFault ↔ s.channelFaulty n = true := by
  have e : s.Bars earlier t .channelFault ↔ ∃ c, n.channel = some c ∧ (s.channel c).state = .fault := by
    simp [State.Bars, h]
  rw [e, State.channelFaulty]
  cases n.channel <;> simp

theorem needs_link (h : s.needs t = some n) : n.link = decide (t.target.kind = .drive) := by
  unfold State.needs at h
  cases ht : t.target <;> simp only [ht] at h <;> split at h <;> simp at h <;> subst h <;> simp [Target.kind]

theorem bars_linkFault (h : s.needs t = some n) :
    s.Bars earlier t .linkFault ↔ (n.link && decide (s.dlk.state = .fault)) = true := by
  simp [State.Bars, needs_link h]

theorem bars_noPosition (h : s.needs t = some n) : s.Bars earlier t .noPosition ↔ s.noPosition t.target = true := by
  simp only [State.Bars, State.noPosition]
  unfold State.needs at h
  cases ht : t.target with
  | chute c tray =>
    simp only [ht] at h
    cases hx : s.zmr.chuteRecord c with
    | none => simp [hx] at h
    | some x =>
      obtain ⟨xn, xr⟩ := x
      simp only [Target.needsSync, State.fitsLoop, hx, ChuteRecord.fits, Target.kind, Bool.true_and, Bool.or_eq_true,
        decide_eq_true_eq, Bool.not_eq_true', decide_eq_false_iff_not, Nat.not_lt, Target.chute.injEq, reduceCtorEq, true_and, false_and, exists_false, or_false]
      rw [Ltr.L]
      constructor
      · rintro (h1 | ⟨c', tray', n', r', ⟨rfl, rfl⟩, hr, h1⟩)
        · exact .inl (.inl h1)
        · rw [hx] at hr; cases hr
          rcases h1 with h1 | ⟨k, rfl, h1⟩
          · exact .inl (.inr h1)
          · exact .inr (by simpa [Target.trayOk] using h1)
      · rintro ((h1 | h1) | h1)
        · exact .inl h1
        · exact .inr ⟨c, tray, xn, xr, ⟨rfl, rfl⟩, hx, .inl h1⟩
        · cases tray with
          | none => simp [Target.trayOk] at h1
          | some k => exact .inr ⟨c, some k, xn, xr, ⟨rfl, rfl⟩, hx, .inr ⟨k, rfl, by simpa [Target.trayOk] using h1⟩⟩
  | coil c => simp [Target.needsSync, Target.kind]
  | eye r =>
    simp only [ht] at h
    cases hx : s.zmr.eyes[r] with
    | none => simp [hx] at h
    | some x =>
      have hf : x.fits s.ltr = true ↔ (x.X < s.ltr.N * s.ltr.P ∧ x.tol ≤ s.ltr.P / 2
          ∧ ∀ e, x.expected = some e → e ≤ s.ltr.P ∧ x.lenTol ≤ s.ltr.P) := by
        unfold EyeRecord.fits Ltr.L
        cases x.expected <;> simp [and_assoc]
      simp only [Target.needsSync, State.fitsLoop, hx, Target.kind, Target.trayOk, Bool.true_and, Bool.or_eq_true,
        decide_eq_true_eq, Bool.not_eq_true', reduceCtorEq, or_true, true_and, false_and, exists_false, false_or,
        Target.eye.injEq, Bool.not_true, or_false]
      rw [← Bool.not_eq_true, hf]
      constructor
      · rintro (h1 | ⟨m, y, rfl, hy, h1⟩)
        · exact .inl h1
        · rw [hx] at hy; cases hy; exact .inr h1
      · rintro (h1 | h1)
        · exact .inl h1
        · exact .inr ⟨r, x, rfl, hx, h1⟩
  | drive r a b d => simp [Target.needsSync, Target.kind]

theorem bars_resource (h : s.needs t = some n) : s.Bars earlier t .resource ↔ s.resourceHeld n = true := by
  have e : s.Bars earlier t .resource ↔ (∃ c, n.channel = some c ∧ s.ttb.channelHolder[c] ≠ none)
      ∨ (∃ l, n.line = some l ∧ s.ttb.lineHolder[l] ≠ none) ∨ (n.link = true ∧ s.dlk.state ≠ .idle) := by
    simp [State.Bars, h]
  rw [e, State.resourceHeld]
  cases n.channel <;> cases n.line <;> simp [Option.isSome_iff_ne_none, or_assoc]

theorem bars_order (h : s.needs t = some n) {ahead : List Needs}
    (ha : ahead = earlier.filterMap fun j => (s.trial j).bind s.needs) :
    s.Bars earlier t .order ↔ ahead.any n.clash = true := by
  subst ha
  have hc : ∀ m : Needs, n.clash m = true ↔ ((n.channel ≠ none ∧ m.channel = n.channel) ∨ (n.line ≠ none ∧ m.line = n.line)
      ∨ (n.link = true ∧ m.link = true)) := by
    intro m
    have e : ∀ {α : Type} (a b : Option α), (a.isSome = true ∧ a = b) ↔ (a ≠ none ∧ b = a) := by
      intro α a b
      rw [Option.isSome_iff_ne_none, @eq_comm _ a b]
    simp only [Needs.clash, Bool.or_eq_true, Bool.and_eq_true, decide_eq_true_eq, e, or_assoc]
  simp only [State.Bars, h, List.any_eq_true, List.mem_filterMap, Option.some.injEq]
  constructor
  · rintro ⟨j, hj, t', m, n', ht, rfl, hn, h1⟩
    exact ⟨n', ⟨j, hj, by simp [ht, hn]⟩, (hc n').2 h1⟩
  · rintro ⟨n', ⟨j, hj, hb⟩, h1⟩
    obtain ⟨t', ht, hn⟩ := Option.bind_eq_some_iff.1 hb
    exact ⟨j, hj, t', n, n', ht, rfl, hn, (hc n').1 h1⟩

theorem bars_logFull : s.Bars earlier t .logFull ↔ (!s.vlg.placeFree) = true := by
  simp only [State.Bars, Vlg.placeFree, Bool.not_eq_true', decide_eq_false_iff_not, Nat.not_lt]; rfl

theorem bars_traceBusy (h : s.needs t = some n) :
    s.Bars earlier t .traceBusy ↔ (n.trace && s.tru.allFilling) = true := by
  have e : s.Bars earlier t .traceBusy ↔ n.trace = true ∧ ∀ b : Buf, ∃ tr, s.tru.buffers[b] = some tr ∧ tr.state = .filling := by
    simp [State.Bars, h]
  rw [e, Tru.allFilling, Bool.and_eq_true, List.all_eq_true]
  have hm : ∀ b : Buf, b ∈ allBuffers := by decide
  refine and_congr_right fun _ => ⟨fun hb b _ => ?_, fun hb b => ?_⟩
  · obtain ⟨tr, h1, h2⟩ := hb b; simp [h1, h2]
  · have := hb b (hm b)
    split at this
    · rename_i tr h1; exact ⟨tr, h1, by simpa using this⟩
    · simp at this

/-- The hold reason is the first condition of R61 that holds. -/
theorem holdReason_spec {ahead : List Needs} (ha : ahead = earlier.filterMap fun j => (s.trial j).bind s.needs) :
    match s.holdReason ahead t with
    | some r => s.HeldFor earlier t r
    | none => (∀ r, ¬s.Bars earlier t r) ∧ (s.needs t).isSome = true := by
  have first : ∀ (b : Bool) (r : HoldReason) (rest : Option HoldReason), (s.Bars earlier t r ↔ b = true) →
      (∀ r' : HoldReason, r'.code < r.code → ¬s.Bars earlier t r') →
      (¬s.Bars earlier t r → match rest with
        | some r => s.HeldFor earlier t r
        | none => (∀ r, ¬s.Bars earlier t r) ∧ (s.needs t).isSome = true) →
      match (if b = true then some r else rest) with
        | some r => s.HeldFor earlier t r
        | none => (∀ r, ¬s.Bars earlier t r) ∧ (s.needs t).isSome = true := by
    intro b r rest hb hlt hr
    cases b with
    | true => exact ⟨hb.2 rfl, hlt⟩
    | false => exact hr fun h => by simp at hb; exact hb h
  unfold State.holdReason
  refine first _ _ _ bars_halted (fun r' h => by simp [HoldReason.code] at h) fun b0 => ?_
  cases hn : s.needs t with
  | none =>
    refine ⟨.inl hn, fun r' h => ?_⟩
    cases r' <;> simp [HoldReason.code] at h
    exact b0
  | some n =>
    rw [show (some n).isSome = (s.needs t).isSome by rw [hn]]
    have step : ∀ (r r' : HoldReason), r'.code < r.code + 1 → (∀ q : HoldReason, q.code < r.code → ¬s.Bars earlier t q) →
        ¬s.Bars earlier t r → ¬s.Bars earlier t r' := by
      intro r r' h hq hr
      by_cases e : r'.code < r.code
      · exact hq r' e
      · have : r' = r := by cases r <;> cases r' <;> simp [HoldReason.code] at h e ⊢
        rw [this]; exact hr
    have a1 : ∀ q : HoldReason, q.code < 1 → ¬s.Bars earlier t q := fun q h => step .halted q h (by simp [HoldReason.code]) b0
    refine first _ .setup _ (bars_setup hn) a1 fun b1 => ?_
    have a2 : ∀ q : HoldReason, q.code < 2 → ¬s.Bars earlier t q := fun q h => step .setup q h a1 b1
    refine first _ .channelFault _ (bars_channelFault hn) a2 fun b2 => ?_
    have a3 : ∀ q : HoldReason, q.code < 3 → ¬s.Bars earlier t q := fun q h => step .channelFault q h a2 b2
    refine first _ .linkFault _ (bars_linkFault hn) a3 fun b3 => ?_
    have a4 : ∀ q : HoldReason, q.code < 4 → ¬s.Bars earlier t q := fun q h => step .linkFault q h a3 b3
    refine first _ .noPosition _ (bars_noPosition hn) a4 fun b4 => ?_
    have a5 : ∀ q : HoldReason, q.code < 5 → ¬s.Bars earlier t q := fun q h => step .noPosition q h a4 b4
    refine first _ .resource _ (bars_resource hn) a5 fun b5 => ?_
    have a6 : ∀ q : HoldReason, q.code < 6 → ¬s.Bars earlier t q := fun q h => step .resource q h a5 b5
    refine first _ .order _ (bars_order hn ha) a6 fun b6 => ?_
    have a7 : ∀ q : HoldReason, q.code < 7 → ¬s.Bars earlier t q := fun q h => step .order q h a6 b6
    refine first _ .logFull _ bars_logFull a7 fun b7 => ?_
    have a8 : ∀ q : HoldReason, q.code < 8 → ¬s.Bars earlier t q := fun q h => step .logFull q h a7 b7
    refine first _ .traceBusy _ (bars_traceBusy hn) a8 fun b8 => ?_
    have a9 : ∀ q : HoldReason, q.code < 9 → ¬s.Bars earlier t q := fun q h => step .traceBusy q h a8 b8
    exact ⟨fun r => a9 r (by cases r <;> decide), by rw [hn]; rfl⟩

theorem filterMap_eq {α β : Type} {f g : α → Option β} : ∀ {l : List α}, (∀ x ∈ l, f x = g x) → l.filterMap f = l.filterMap g
  | [], _ => rfl
  | a :: l, h => by
    rw [List.filterMap_cons, List.filterMap_cons, h a List.mem_cons_self, filterMap_eq fun x hx => h x (List.mem_cons_of_mem _ hx)]

/-- The LOADED trials of a list of slots. -/
def loadedOf (s : State) (ks : List Slot) : List Slot :=
  ks.filter fun k => (s.trial k).any fun t => decide (t.state = .loaded)

/-- A scan's turns lead to what R60 and R61 say. -/
theorem foldl_scanTurn_into : ∀ (ks earlier : List Slot) (acc : State × List Needs), ks.Nodup → (∀ k ∈ ks, k ∉ earlier) →
    acc.2 = (earlier.filterMap fun j => (acc.1.trial j).bind acc.1.needs) →
    ScansInto earlier (loadedOf acc.1 ks) acc.1 (ks.foldl scanTurn acc).1
  | [], _, _, _, _, _ => rfl
  | k :: ks, earlier, (s, ahead), hn, he, ha => by
    simp only at ha
    have hks : ∀ j ∈ ks, j ≠ k := fun j hj e => (List.nodup_cons.1 hn).1 (e ▸ hj)
    have hd := (List.nodup_cons.1 hn).2
    have he' : ∀ j ∈ ks, j ∉ earlier := fun j hj => he j (List.mem_cons_of_mem _ hj)
    have hk : k ∉ earlier := he k List.mem_cons_self
    rw [List.foldl_cons]
    cases ht : s.trial k with
    | none =>
      have e1 : scanTurn (s, ahead) k = (s, ahead) := by simp [scanTurn, ht]
      have e2 : loadedOf s (k :: ks) = loadedOf s ks := by simp [loadedOf, ht]
      rw [e1, e2]; exact foldl_scanTurn_into ks earlier (s, ahead) hd he' ha
    | some t =>
      by_cases hb : t.begun = true
      · have e1 : scanTurn (s, ahead) k = (s, ahead) := by simp [scanTurn, ht, hb]
        have e2 : loadedOf s (k :: ks) = loadedOf s ks := by
          have : ¬t.state = .loaded := by simpa [Trial.begun] using hb
          simp [loadedOf, ht, this]
        rw [e1, e2]; exact foldl_scanTurn_into ks earlier (s, ahead) hd he' ha
      · have hl : t.state = .loaded := by simpa [Trial.begun] using hb
        have e2 : loadedOf s (k :: ks) = k :: loadedOf s ks := by simp [loadedOf, ht, hl]
        rw [e2]
        refine ⟨t, ht, hl, ?_⟩
        have same : ∀ u : State, (∀ j, j ≠ k → u.trial j = s.trial j) → loadedOf u ks = loadedOf s ks := by
          intro u hu
          exact List.filter_congr fun j hj => by rw [hu j (hks j hj)]
        have needsOf : ∀ u : State, u.zmr = s.zmr → (∀ j, j ≠ k → u.trial j = s.trial j) →
            ahead = (earlier.filterMap fun j => (u.trial j).bind u.needs) := by
          intro u hz hu
          have hn : u.needs = s.needs := by funext t; simp only [State.needs, hz]
          rw [ha, hn]
          exact filterMap_eq fun j hj => by rw [hu j fun e => hk (e ▸ hj)]
        have hsp := holdReason_spec (t := t) ha
        cases hr : s.holdReason ahead t with
        | some r =>
          rw [hr] at hsp
          have hu : ∀ j, j ≠ k → (s.setTrial k (some { t with hold := some r })).trial j = s.trial j := by
            intro j hj; rw [State.setTrial_trial, if_neg (Ne.symm hj)]
          refine .inl ⟨r, hsp, ?_⟩
          have hnk : (s.setTrial k (some { t with hold := some r })).needs { t with hold := some r } = s.needs t := rfl
          have e1 : (scanTurn (s, ahead) k) = (s.setTrial k (some { t with hold := some r }),
              ((earlier ++ [k]).filterMap fun j => ((s.setTrial k (some { t with hold := some r })).trial j).bind
                (s.setTrial k (some { t with hold := some r })).needs)) := by
            rw [List.filterMap_append, ← needsOf (s.setTrial k (some { t with hold := some r })) rfl hu]
            have hk' : (s.setTrial k (some { t with hold := some r })).trial k = some { t with hold := some r } := by
              rw [State.setTrial_trial, if_pos rfl]
            simp only [List.filterMap_cons, List.filterMap_nil, hk', Option.bind_some, hnk]
            cases hm : s.needs t <;> simp [scanTurn, ht, hb, hr, hm]
          rw [e1, ← same _ hu]
          exact foldl_scanTurn_into ks (earlier ++ [k]) (_, _) hd
            (fun j hj h => (List.mem_append.1 h).elim (he' j hj) fun h => hks j hj (List.mem_singleton.1 h)) rfl
        | none =>
          rw [hr] at hsp
          obtain ⟨n, hm⟩ := Option.isSome_iff_exists.1 hsp.2
          have hu : ∀ j, j ≠ k → (s.arm k t n).trial j = s.trial j := fun j hj => arm_trial t n hj
          refine .inr ⟨n, hm, hsp.1, ?_⟩
          have e1 : scanTurn (s, ahead) k = (s.arm k t n, ahead) := by simp [scanTurn, ht, hb, hr, hm]
          rw [e1, ← same _ hu]
          exact foldl_scanTurn_into ks earlier (_, _) hd he' (needsOf _ (State.zmr_of_kept (State.arm_kept ..)) hu)

theorem insertOldest_perm (age : Slot → Nat) (k : Slot) : ∀ l, (insertOldest age k l).Perm (k :: l)
  | [] => .refl _
  | j :: l => by
    unfold insertOldest; split
    · exact .refl _
    · exact ((insertOldest_perm age k l).cons j).trans (.swap k j l)

theorem insertOldest_sorted (age : Slot → Nat) (k : Slot) : ∀ l, l.Pairwise (fun i j => age j ≤ age i) →
    (insertOldest age k l).Pairwise (fun i j => age j ≤ age i)
  | [], _ => by simp [insertOldest]
  | j :: l, h => by
    unfold insertOldest; split
    · rename_i hj
      refine List.pairwise_cons.2 ⟨fun a ha => ?_, h⟩
      rcases List.mem_cons.1 ha with rfl | ha
      · omega
      · have := (List.pairwise_cons.1 h).1 a ha; omega
    · rename_i hj
      refine List.pairwise_cons.2 ⟨fun a ha => ?_, insertOldest_sorted age k l (List.pairwise_cons.1 h).2⟩
      rcases List.mem_cons.1 ((insertOldest_perm age k l).mem_iff.1 ha) with rfl | ha
      · omega
      · exact (List.pairwise_cons.1 h).1 a ha

theorem sortOldest_perm (age : Slot → Nat) : ∀ l, (sortOldest age l).Perm l
  | [] => .refl _
  | k :: l => (insertOldest_perm age k _).trans ((sortOldest_perm age l).cons k)

theorem sortOldest_sorted (age : Slot → Nat) : ∀ l, (sortOldest age l).Pairwise (fun i j => age j ≤ age i)
  | [] => .nil
  | k :: l => insertOldest_sorted age k _ (sortOldest_sorted age l)

/-- A scan takes every LOADED trial once, in load order, and each turn arms it or gives it the first hold reason that applies. -/
theorem State.scan_into (s : State) : ∃ ks : List Slot, ks.Nodup
    ∧ (∀ j, j ∈ ks ↔ ∃ t, s.trial j = some t ∧ t.state = .loaded)
    ∧ ks.Pairwise (fun i j => ∀ a b, s.trial i = some a → s.trial j = some b → s.ttb.age b ≤ s.ttb.age a)
    ∧ ScansInto [] ks s s.scan := by
  have hp : s.ttb.oldestFirst.Perm (allSlots.filter fun k => (s.ttb.slots[k]).isSome) := sortOldest_perm _ _
  have hn : s.ttb.oldestFirst.Nodup := hp.nodup_iff.2 (List.Pairwise.filter _ (by decide : allSlots.Nodup))
  refine ⟨loadedOf s s.ttb.oldestFirst, List.Pairwise.filter _ hn, fun j => ?_, ?_, ?_⟩
  · have hm : j ∈ allSlots := by revert j; decide
    simp only [loadedOf, List.mem_filter, hp.mem_iff, hm, true_and]
    change (s.trial j).isSome = true ∧ _ ↔ _
    cases s.trial j <;> simp
  · refine List.Pairwise.filter _ ((sortOldest_sorted s.ttb.slotAge _).imp fun {i j} h a b ha hb => ?_)
    change s.ttb.slots[i] = some a at ha
    change s.ttb.slots[j] = some b at hb
    simpa [Ttb.slotAge, ha, hb] using h
  · exact foldl_scanTurn_into _ [] (s, []) hn (by simp) rfl

end Sys2Proof.Machine
end

