-- ==== Sys2Proof/Laws/Stable.lean ====
section
/-! SUPPORT. Once for every command: an invariant that the elementary effects and the listed first effects of events keep is
kept by `exec`. -/

namespace Sys2Proof.Machine

/-! ## The first effects of events, block by block -/

/-- What an event does to the tracker. -/
inductive LtrMove (l : Ltr) : Ltr → Prop where
  | forward : LtrMove l l.forward
  | backward : LtrMove l l.backward
  | illegal : LtrMove l l.illegal
  | firstSample (a b : Level) : LtrMove l (l.firstSample a b)
  | closeWindow : LtrMove l l.closeWindow
  | sync : LtrMove l l.sync
  | correct : LtrMove l l.correct
  | missHome : LtrMove l l.missHome
  | lose : LtrMove l l.lose
  | unsync : LtrMove l l.unsync
  | setLoop (n p ht : Nat) (hn : 16 ≤ n ∧ n ≤ 1024) (hp : 64 ≤ p ∧ p ≤ 8192) : LtrMove l (l.setLoop n p ht)

/-- What an event does to the line matrix, the request assertion apart. -/
inductive LmxMove (x : Lmx) : Lmx → Prop where
  | accept (l : LineNo) : LmxMove x { x with lines := x.lines.set l (x.lines[l]).accept }
  | sample (l : LineNo) (v : Level) : LmxMove x { x with lines := x.lines.set l ((x.lines[l]).sample v) }
  | configure (l : LineNo) (cfg : LineConfig) (h : x.claimed l cfg.fn = false) : LmxMove x (x.configure l cfg)
  | safe : LmxMove x x.applySafe

/-- What an accepted request does to the zone map and the records, under the tracker `l`. -/
inductive ZmrMove (l : Ltr) (z : Zmr) : Zmr → Prop where
  | zone (a b : Nat) (ha : a ≤ 1016 ∧ b ≤ 1016) (ho : windowsOverlap a b = false) : ZmrMove l z (z.setZone a b)
  | chute (n : Chan) (r : ChuteRecord) (hn : z.channelOf r.chute = some n) (hr : r.inRange l = true) :
      ZmrMove l z { z with chutes := z.chutes.set n (some r) }
  | eye (k : Fin 16) (r : EyeRecord) (hr : r.inRange l = true) : ZmrMove l z { z with eyes := z.eyes.set k (some r) }
  | drive (k : Fin 8) (r : DriveRecord) (hr : r.inRange = true) : ZmrMove l z { z with drives := z.drives.set k (some r) }

/-- What an event does to the queue, the busy list and the held bytes of the host link; the rest of it may change freely. -/
inductive HlkMove (h : Hlk) : Hlk → Prop where
  | less (g : Hlk) (hq : g.queue <:+ h.queue) (hb : g.busy <:+ h.busy) (hh : g.held = h.held) : HlkMove h g
  | examined (r : List Frame × List (Byte × Time)) (hr : r.2.length ≤ 245) : HlkMove h (h.examined r)
  | drop : HlkMove h { h with held := [] }

/-- Whether work can start from a state: run control RUNNING, or entries in the fire list. -/
def State.Live (s : State) : Prop := s.ttb.run = .running ∨ s.fsc ≠ []

theorem State.lives (s : State) : Lives s.Live s := .inl

/-- What an invariant must be shown to keep, for every command to keep it. -/
structure Stable (I : State → Prop) : Prop where
  effects : ∀ s t : State, Effects s.Live s t → I s → I t
  time : ∀ (s : State) dt, I s → I (s.after dt)
  power : ∀ strap c p, I { State.reset with hlk := { Hlk.reset with strap := strap }, choices := c, pending := p }
  soft : ∀ s : State, I s → I s.softReset
  hlk : ∀ (s : State) x, HlkMove s.hlk x → I s → I (s.setHlk x)
  ltr : ∀ (s : State) x, LtrMove s.ltr x → I s → I (s.setLtr x)
  lmx : ∀ (s : State) x, LmxMove s.lmx x → I s → I (s.setLmx x)
  zmr : ∀ (s : State) x, ZmrMove s.ltr s.zmr x → I s → I (s.setZmr x)
  tru : ∀ (s : State) x, I s → I (s.setTru x)
  halt : ∀ (s : State) c, I s → I (s.enterHalted c)
  stop : ∀ (s : State) c, s.ttb.run = .halted c → I s → I (s.setTtb { s.ttb with run := .halted .stop })
  resume : ∀ s : State, I s → I (s.setTtb { s.ttb with run := .running })
  boundary : ∀ s : State, I s → I s.boundaryMoved
  clear : ∀ (s : State) c, I s → I (s.setChannel c (s.channel c).clear)
  load : ∀ (s : State) k n t, s.trial k = none → s.ttb.carries n = false → I s → I (s.setTtb (s.ttb.load k n t))
  log : ∀ (s : State) n, I s → I (s.setVlg (s.vlg.remove n))

variable {I : State → Prop} {s t : State}

/-! ## Serving and transmitting -/

theorem Stable.same (i : Stable I) (x : Hlk) (hq : x.queue = s.hlk.queue) (hb : x.busy = s.hlk.busy)
    (hh : x.held = s.hlk.held) (hs : I s) : I (s.setHlk x) :=
  i.hlk _ _ (.less x (hq ▸ List.suffix_refl _) (hb ▸ List.suffix_refl _) hh) hs

theorem Stable.keep_kick (i : Stable I) (hs : I s) : I s.kick := by
  rw [State.kick_eq]
  obtain ⟨_, hh, hq, _, _, _, _, hb⟩ := s.kick_hlk
  exact i.hlk _ _ (.less _ (hq ▸ List.suffix_refl _) hb hh) hs

theorem Stable.keep_timed (i : Stable I) {due : State → Bool} {effect : State → State} {dt : Time}
    (h : timed due effect dt s = .next t) (hs : I s) (he : ∀ s, due s = true → I s → I (effect s)) : I t := by
  rcases timed_next h with rfl | ⟨hd, rfl⟩
  · exact hs
  · exact i.keep_kick (he _ hd (i.time _ _ hs))

/-- A block's answer, whatever it is, leaves a state in which the invariant holds. -/
def Answer.Keeps (I : State → Prop) : Answer → Prop
  | .reply s _ => I s
  | .refused _ => True
  | .waiting s => I s

theorem Stable.keep_answer (i : Stable I) (f : Frame) {a : Answer} (hs : I s) (ha : a.Keeps I) : I (s.answer f a) := by
  cases a with
  | reply s' p => exact i.same (s := s') _ rfl rfl rfl ha
  | refused r => exact i.same _ rfl rfl rfl hs
  | waiting s' => exact i.same (s := s') _ rfl rfl rfl ha

theorem Stable.keep_serve (i : Stable I) {kind : Byte} {len : Nat} {block : List Byte → State → Answer} {dt : Time}
    (h : serve kind len block dt s = .next t) (hs : I s) (he : ∀ s b, I s → (block b s).Keeps I) : I t := by
  rcases serve_next h with rfl | ⟨f, rest, hn, _, rfl⟩
  · exact hs
  · have hq := (Hlk.nextRequest_some hn).2.2.2
    have h0 : I ((s.after dt).taken rest) :=
      i.hlk _ _ (.less _ (by rw [hq]; exact List.suffix_cons f rest) (List.suffix_refl _) rfl) (i.time _ _ hs)
    refine i.keep_kick (i.keep_answer f h0 ?_)
    split
    · exact he _ _ h0
    · trivial

/-! ## Effects between the blocks -/

theorem Stable.one (i : Stable I) (h : Effect s.Live s t) (hs : I s) : I t := i.effects s t (.one h) hs

theorem Stable.scan (i : Stable I) (hs : I s) : I s.scan := i.effects _ _ (State.scan_effects s.lives) hs

theorem Stable.track (i : Stable I) (hs : I s) : I s.trackChanged :=
  i.effects _ _ (State.trackChanged_effects s.lives) hs

theorem Stable.lose (i : Stable I) (hs : I s) : I s.lose :=
  i.effects _ _ (State.lose_effects (s := s) (live := (s.setLtr s.ltr.lose).Live) s.lives) (i.ltr _ _ .lose hs)

theorem Stable.entries (i : Stable I) (f : FireEntry → EntryStep) (hs : I s) : I (s.runEntries f) :=
  i.effects _ _ (State.runEntries_effects .inr f) hs

theorem Stable.eyes (i : Stable I) (d : Int) (hs : I s) : I (s.moveEyes d) :=
  i.effects _ _ (State.moveEyes_effects s.lives d) hs

theorem Stable.stopAssert (i : Stable I) (hs : I s) : I s.stopAssert := by
  unfold State.stopAssert; split
  · exact i.halt _ _ hs
  · rename_i c hc
    exact i.effects _ _ State.stopWhileHalted_effects (i.stop s c hc hs)

theorem Stable.home (i : Stable I) (hs : I s) : I s.homeEdge := by
  unfold State.homeEdge; split
  · dsimp only; split
    · exact i.eyes _ (i.entries _ (i.ltr _ _ .correct hs))
    · exact i.lose (i.ltr _ _ .missHome hs)
  · exact i.track (i.ltr _ _ .sync hs)

theorem Stable.backward (i : Stable I) (hs : I s) : I s.countBackward := by
  have h := i.eyes (-1) (i.entries (fun e => e.onBackward s.ltr.H) (i.ltr s _ .backward hs))
  unfold State.countBackward; dsimp only; split
  · exact i.lose h
  · exact h

theorem Stable.window (i : Stable I) (hs : I s) : I s.closeWindow := by
  have h : ∀ x, I x → I (x.setDlk (x.dlk.window x.T x.ltr.V)) :=
    fun x hx => i.one (.link x _ (Dlk.window_engaged _ _ _)) hx
  have h1 := i.ltr s _ .closeWindow hs
  unfold State.closeWindow; dsimp only
  apply h
  split
  · exact i.entries _ h1
  · exact i.effects _ _ (State.abortPositions_effects (State.lives _) _) h1

theorem Stable.edge (i : Stable I) (l : LineNo) (hs : I s) : I (s.acceptEdge l) := by
  have h1 : I (s.setLine l (s.line l).accept) := i.lmx _ _ (.accept l) hs
  unfold State.acceptEdge; dsimp only; split
  · exact h1
  · exact h1
  · exact h1
  · split
    · exact i.home h1
    · exact h1
  · exact i.effects _ _ (State.eyeEdge_effects _ _ _ _) h1
  · split
    · exact i.stopAssert h1
    · exact h1
  · split
    · exact i.effects _ _ (State.busyEdge_effects (State.lives _)) h1
    · exact h1

theorem Stable.reads (i : Stable I) (v : Adc) (hs : I s) : I (s.convertRead v) := by
  unfold State.convertRead; split
  · exact hs
  · dsimp only; split
    · unfold State.answerAnalog; split
      · exact i.tru _ _ hs
      · exact i.same _ rfl rfl rfl (i.tru _ _ (i.tru _ _ hs))
    · exact i.tru _ _ hs

theorem Stable.receive (i : Stable I) (t : Time) (b : Byte) (v : Level) (hs : I s) : I (s.setHlk (s.hlk.receive t b v)) := by
  have h1 : I (s.setHlk (if s.hlk.gapOver t then s.hlk.abandon else s.hlk)) := by
    split
    · exact i.hlk _ _ (.examined _ (hunt_held _ _ _)) hs
    · exact hs
  unfold Hlk.receive
  generalize (if s.hlk.gapOver t then s.hlk.abandon else s.hlk) = x at h1
  cases v with
  | low => exact i.hlk (s.setHlk x) _ .drop h1
  | high => exact i.hlk (s.setHlk x) _ (.examined _ (hunt_held _ _ _)) h1

/-! ## Requests -/

theorem Stable.applySetLoop (i : Stable I) {n p : Nat} (ht : Nat) (hn : 16 ≤ n ∧ n ≤ 1024) (hp : 64 ≤ p ∧ p ≤ 8192)
    (hs : I s) : I (s.applySetLoop n p ht) := by
  unfold State.applySetLoop; dsimp only; apply i.scan
  have h1 := i.ltr s _ (.setLoop n p ht hn hp) hs
  split
  · exact h1
  · exact i.track h1

theorem Stable.applySetLine (i : Stable I) (l : LineNo) (cfg : LineConfig) (hc : s.lmx.claimed l cfg.fn = false) (hs : I s) :
    I (s.applySetLine l cfg) := by
  have h1 := i.lmx s _ (.configure l cfg hc) hs
  have h2 : I (s.setLmx (s.lmx.configure l cfg)).unsync.scan := by
    apply i.scan; unfold State.unsync; split
    · exact h1
    · exact i.one (.raise _ _) (i.ltr _ _ .unsync h1)
  have h3 : ∀ x, I x → I (if x.lmx.stopHolds && !s.lmx.stopHolds then x.stopAssert else x) := by
    intro x hx; split
    · exact i.stopAssert hx
    · exact hx
  unfold State.applySetLine; dsimp only
  apply i.scan
  apply h3
  split
  · exact h2
  · exact h1

theorem Stable.keep_setLoop (i : Stable I) (b : List Byte) (hs : I s) : (serveSetLoop b s).Keeps I := by
  unfold serveSetLoop; dsimp only
  split
  · trivial
  · split
    · trivial
    · split
      · trivial
      · rename_i hn hp _
        exact i.applySetLoop _ (Decidable.not_not.mp hn) (Decidable.not_not.mp hp) hs

theorem Stable.keep_setZone (i : Stable I) (b : List Byte) (hs : I s) : (serveSetZone b s).Keeps I := by
  unfold serveSetZone; dsimp only
  split
  · trivial
  · split
    · trivial
    · split
      · trivial
      · rename_i ha ho _
        exact i.scan (i.zmr _ _ (.zone _ _ (Decidable.not_not.mp ha) (by simpa using ho)) hs)

theorem Stable.keep_setChute (i : Stable I) (b : List Byte) (hs : I s) : (serveSetChute b s).Keeps I := by
  unfold serveSetChute
  split
  · trivial
  · split
    · trivial
    · split
      · trivial
      · split
        · trivial
        · rename_i hn hr _
          exact i.scan (i.zmr _ _ (.chute _ _ hn (by simpa using hr)) hs)

theorem Stable.keep_setEye (i : Stable I) (b : List Byte) (hs : I s) : (serveSetEye b s).Keeps I := by
  unfold serveSetEye
  split
  · trivial
  · split
    · trivial
    · split
      · trivial
      · rename_i hr _
        exact i.scan (i.zmr _ _ (.eye _ _ (by simpa using hr)) hs)

theorem Stable.keep_setDrive (i : Stable I) (b : List Byte) (hs : I s) : (serveSetDrive b s).Keeps I := by
  unfold serveSetDrive
  split
  · trivial
  · split
    · trivial
    · split
      · trivial
      · rename_i hr _
        exact i.scan (i.zmr _ _ (.drive _ _ (by simpa using hr)) hs)

theorem Stable.keep_setLine (i : Stable I) (b : List Byte) (hs : I s) : (serveSetLine b s).Keeps I := by
  unfold serveSetLine
  split
  · trivial
  · split
    · trivial
    · split
      · trivial
      · rename_i hc _
        exact i.applySetLine _ _ (by simpa using hc) hs

theorem Stable.keep_readAnalog (i : Stable I) (b : List Byte) (hs : I s) : (serveReadAnalog b s).Keeps I := by
  unfold serveReadAnalog
  split
  · trivial
  · exact i.tru _ _ hs

theorem Stable.keep_loadTrial (i : Stable I) (b : List Byte) (hs : I s) : (serveLoadTrial b s).Keeps I := by
  unfold serveLoadTrial
  split
  · trivial
  · split
    · trivial
    · rename_i k hk
      split
      · trivial
      · rename_i hr
        have hk' : s.trial k = none := by
          have := List.find?_some hk
          simpa [State.trial] using this
        have hc : s.ttb.carries (field b 0 2) = false := by
          unfold State.loadRefusal at hr; split at hr
          · cases hr
          · simp_all
        exact i.scan (i.load _ _ _ _ hk' hc hs)

theorem Stable.keep_cancelTrial (i : Stable I) (b : List Byte) (hs : I s) : (serveCancelTrial b s).Keeps I := by
  unfold serveCancelTrial
  split
  · trivial
  · exact i.effects _ _ (State.cancelSlot_effects s.lives _ _) hs

theorem Stable.keep_readLog (i : Stable I) (b : List Byte) (hs : I s) : (serveReadLog b s).Keeps I := by
  have h1 : ∀ n, I (s.setVlg (s.vlg.remove n)) := fun n => i.log _ n hs
  unfold serveReadLog; dsimp only
  split
  · trivial
  · show I (if _ then _ else _)
    split
    · exact i.scan (h1 _)
    · exact h1 _

theorem Stable.keep_readTrace (i : Stable I) (b : List Byte) (hs : I s) : (serveReadTrace b s).Keeps I := by
  unfold serveReadTrace; dsimp only
  split
  · trivial
  · split
    · trivial
    · exact i.tru _ _ hs

theorem Stable.keep_halt (i : Stable I) (b : List Byte) (hs : I s) : (serveHalt b s).Keeps I := by
  show I (if _ then _ else _)
  split
  · exact hs
  · exact i.halt _ _ hs

theorem Stable.keep_resume (i : Stable I) (b : List Byte) (hs : I s) : (serveResume b s).Keeps I := by
  unfold serveResume; dsimp only
  split
  · trivial
  · show I (if _ then _ else _)
    split
    · exact i.scan (i.resume _ hs)
    · exact hs

theorem Stable.keep_clearChannel (i : Stable I) (b : List Byte) (hs : I s) : (serveClearChannel b s).Keeps I := by
  unfold serveClearChannel
  split
  · trivial
  · split
    · exact i.scan (i.clear _ _ hs)
    · trivial

theorem Stable.keep_linkRestart (i : Stable I) (b : List Byte) (hs : I s) : (serveLinkRestart b s).Keeps I := by
  unfold serveLinkRestart
  split
  · trivial
  · split
    · rename_i hf; exact i.scan (i.one (.link s _ (by rw [hf]; rfl)) hs)
    · exact hs

/-! ## Every command -/

/-- An invariant that is stable is kept by every command. -/
theorem Stable.keep_exec (i : Stable I) (c : Instr) (hs : I s) (h : exec c s = .next t) : I t := by
  cases c with
  | powerReset a b => simp only [exec, execPowerReset] at h; injection h with h; subst h; exact i.power _ _ _
  | softReset dt => simp only [exec, execSoftReset] at h; exact i.keep_timed h hs fun s _ hs => i.soft s hs
  | forwardCount dt =>
    simp only [exec, execForwardCount] at h
    refine i.keep_timed h hs fun s _ hs => ?_
    unfold State.countForward; exact i.eyes _ (i.entries _ (i.ltr _ _ .forward hs))
  | backwardCount dt => simp only [exec, execBackwardCount] at h; exact i.keep_timed h hs fun s _ hs => i.backward hs
  | illegalTransition dt =>
    simp only [exec, execIllegalTransition] at h
    refine i.keep_timed h hs fun s _ hs => ?_
    unfold State.illegal; dsimp only; split
    · exact i.lose (i.ltr _ _ .illegal hs)
    · exact i.ltr _ _ .illegal hs
  | windowClose dt => simp only [exec, execWindowClose] at h; exact i.keep_timed h hs fun s _ hs => i.window hs
  | acceptedEdge dt l => simp only [exec, execAcceptedEdge] at h; exact i.keep_timed h hs fun s _ hs => i.edge l hs
  | periodBoundary dt =>
    simp only [exec, execPeriodBoundary] at h
    exact i.keep_timed h hs fun s _ hs => i.effects _ _ (State.boundary_effects (State.lives _)) (i.boundary s hs)
  | scanStart dt x => simp only [exec, execScanStart] at h; exact i.keep_timed h hs fun s _ hs => i.tru _ _ hs
  | sampleDelivery dt =>
    simp only [exec, execSampleDelivery] at h
    refine i.keep_timed h hs fun s hd hs => ?_
    cases hl : s.tru.scanList with
    | nil => simp [hl] at hd
    | cons x rest => exact i.effects _ _ (State.deliverSample_effects (State.lives _) hl) (i.tru _ _ hs)
  | analogReadConversionEnd dt v =>
    simp only [exec, execAnalogReadConversionEnd] at h; exact i.keep_timed h hs fun s _ hs => i.reads v hs
  | watchExpiry dt k =>
    simp only [exec, execWatchExpiry] at h
    exact i.keep_timed h hs fun s _ hs => i.effects _ _ (State.expireWatch_effects s.lives k) hs
  | checkDeadline dt =>
    simp only [exec, execCheckDeadline] at h
    refine i.keep_timed h hs fun s hd hs => i.effects _ _ (State.checkDue_effects s.lives ?_) hs
    simp at hd; exact hd.1
  | exchangeEnd dt a b c d =>
    simp only [exec, execExchangeEnd] at h
    exact i.keep_timed h hs fun s _ hs => i.effects _ _ (State.exchangeEnd_effects s.lives _ _ _ _) hs
  | hostByteArrival dt b v =>
    simp only [exec, execHostByteArrival] at h; exact i.keep_timed h hs fun s _ hs => i.receive _ b v hs
  | gapExpiry dt =>
    simp only [exec, execGapExpiry] at h
    exact i.keep_timed h hs fun s _ hs => i.hlk _ _ (.examined _ (hunt_held _ _ _)) hs
  | frameTransmitEnd dt =>
    simp only [exec, execFrameTransmitEnd] at h; exact i.keep_timed h hs fun s _ hs => i.same _ rfl rfl rfl hs
  | identify dt => simp only [exec, execIdentify] at h; exact i.keep_serve h hs fun s b hs => hs
  | status dt =>
    simp only [exec, execStatus] at h; exact i.keep_serve h hs fun s b hs => i.same (s := s) _ rfl rfl rfl hs
  | subscribe dt =>
    simp only [exec, execSubscribe] at h; exact i.keep_serve h hs fun s b hs => i.same (s := s) _ rfl rfl rfl hs
  | reset dt =>
    simp only [exec, execReset] at h; exact i.keep_serve h hs fun s b hs => i.same (s := s) _ rfl rfl rfl hs
  | setLoop dt => simp only [exec, execSetLoop] at h; exact i.keep_serve h hs fun s b hs => i.keep_setLoop b hs
  | setZone dt => simp only [exec, execSetZone] at h; exact i.keep_serve h hs fun s b hs => i.keep_setZone b hs
  | setChute dt => simp only [exec, execSetChute] at h; exact i.keep_serve h hs fun s b hs => i.keep_setChute b hs
  | setEye dt => simp only [exec, execSetEye] at h; exact i.keep_serve h hs fun s b hs => i.keep_setEye b hs
  | setDrive dt => simp only [exec, execSetDrive] at h; exact i.keep_serve h hs fun s b hs => i.keep_setDrive b hs
  | setLine dt => simp only [exec, execSetLine] at h; exact i.keep_serve h hs fun s b hs => i.keep_setLine b hs
  | readLines dt => simp only [exec, execReadLines] at h; exact i.keep_serve h hs fun s b hs => hs
  | readAnalog dt => simp only [exec, execReadAnalog] at h; exact i.keep_serve h hs fun s b hs => i.keep_readAnalog b hs
  | loadTrial dt => simp only [exec, execLoadTrial] at h; exact i.keep_serve h hs fun s b hs => i.keep_loadTrial b hs
  | cancelTrial dt =>
    simp only [exec, execCancelTrial] at h; exact i.keep_serve h hs fun s b hs => i.keep_cancelTrial b hs
  | cancelAll dt =>
    simp only [exec, execCancelAll] at h
    exact i.keep_serve h hs fun s b hs => i.scan (i.effects _ _ (State.cancelAll_effects s.lives) hs)
  | readTable dt => simp only [exec, execReadTable] at h; exact i.keep_serve h hs fun s b hs => hs
  | readLog dt => simp only [exec, execReadLog] at h; exact i.keep_serve h hs fun s b hs => i.keep_readLog b hs
  | readTrace dt => simp only [exec, execReadTrace] at h; exact i.keep_serve h hs fun s b hs => i.keep_readTrace b hs
  | halt dt => simp only [exec, execHalt] at h; exact i.keep_serve h hs fun s b hs => i.keep_halt b hs
  | resume dt => simp only [exec, execResume] at h; exact i.keep_serve h hs fun s b hs => i.keep_resume b hs
  | clearChannel dt =>
    simp only [exec, execClearChannel] at h; exact i.keep_serve h hs fun s b hs => i.keep_clearChannel b hs
  | linkRestart dt =>
    simp only [exec, execLinkRestart] at h; exact i.keep_serve h hs fun s b hs => i.keep_linkRestart b hs
  | unknownKind dt =>
    simp only [exec, execUnknownKind] at h
    split at h
    · injection h with h; subst h; exact hs
    · rename_i f rest hn
      split at h
      · injection h with h; subst h; exact hs
      · injection h with h; subst h
        have hq := (Hlk.nextRequest_some hn).2.2.2
        refine i.keep_kick (i.keep_answer f (i.hlk _ _ (.less _ ?_ (List.suffix_refl _) rfl) (i.time _ dt hs)) trivial)
        rw [hq]; exact List.suffix_cons f rest
  | firstDecoderSample dt a b =>
    simp only [exec, execFirstDecoderSample] at h; exact i.keep_timed h hs fun s _ hs => i.ltr _ _ (.firstSample a b) hs
  | lineSample dt l v =>
    simp only [exec, execLineSample] at h; exact i.keep_timed h hs fun s _ hs => i.lmx _ _ (.sample l v) hs

end Sys2Proof.Machine
end

