-- ==== Sys2Proof/Laws/Tied.lean ====
section
/-! SUPPORT. `State.Tied` reads five blocks only: what leaves the fire list, the table, the channels, the observations and the link
as they are keeps it. -/

namespace Sys2Proof.Machine

theorem State.Tied.of_blocks {s u : State} (h : s.Tied) (hf : u.fsc = s.fsc) (hb : u.ttb = s.ttb) (hc : u.cdu = s.cdu)
    (ho : u.obu = s.obu) (hd : u.dlk = s.dlk) : u.Tied := by
  obtain ⟨_, ltr, lmx, zmr, _, _, _, tru, _, _, vlg, hlk, n, q⟩ := u
  cases hf; cases hb; cases hc; cases ho; cases hd
  exact ⟨h.entry, h.apart, h.watch, h.eye, h.link, h.drive, h.coil, h.busy, h.done⟩

theorem State.Tied.after {s : State} (h : s.Tied) (dt : Time) : (s.after dt).Tied := h.of_blocks rfl rfl rfl rfl rfl

theorem State.Tied.setLtr {s : State} (h : s.Tied) (l : Ltr) : (s.setLtr l).Tied := h.of_blocks rfl rfl rfl rfl rfl

theorem State.Tied.setLmx {s : State} (h : s.Tied) (x : Lmx) : (s.setLmx x).Tied := h.of_blocks rfl rfl rfl rfl rfl

theorem State.Tied.setHlk {s : State} (h : s.Tied) (x : Hlk) : (s.setHlk x).Tied := h.of_blocks rfl rfl rfl rfl rfl

end Sys2Proof.Machine
end

