-- ==== Sys2Proof/Tests/Slice0.lean ====
section
/-! SUPPORT. Small tests, each about one command, with expected results from the manual's rules and worked examples, and one witness
for each obligation that has hypotheses: a concrete state that meets them. -/

namespace Sys2Proof.Tests

open Sys2Proof Sys2Proof.Machine

set_option Elab.async false

/-! ## Builders -/

/-- The state a command leaves. -/
def next (o : Host.Outcome State Fault Refusal) : State :=
  match o with
  | .next s => s
  | .fault _ => .reset
  | .refused _ => .reset

/-- The reset state with a tracker. -/
def ltr (x : Ltr) : State := State.reset.setLtr x

/-- A tracker with a decoder reference at (0,0). -/
def enc : Ltr := { Ltr.reset with ref := some (.low, .low) }

/-- The same, SYNCED. -/
def encS : Ltr := { enc with trust := .synced }

/-- A line of a function, sampled, ripe for an edge from `v` to the other level; its active level is HIGH. -/
def line (s : State) (l : LineNo) (fn : LineFn) (v : Level) : State :=
  s.setLine l { cfg := { LineConfig.reset with fn := fn }, accepted := v, started := true, c := 3 }

/-- A request at the head of the queue. -/
def ask (s : State) (kind : Byte) (payload : List Byte) : State :=
  s.setHlk { s.hlk with queue := [{ kind := kind, tag := 7, payload := payload }] }

/-- The request that `ask` puts there. -/
def req (kind : Byte) (payload : List Byte) : Frame := { kind := kind, tag := 7, payload := payload }

/-- The reply or refusal in transmission. -/
def sent (s : State) : Option Frame := s.hlk.tx.map Transmission.frame

/-- A coil profile. -/
def prof : Profile :=
  { pullDuty := 256, pullPeriods := 2, holdDuty := 96, holdPeriods := 1, dead := 2, returnDuty := 200, returnPeriods := 1,
    recover := 1, trip := 3800 }

/-- A chute record for chute 0. -/
def chute0 : ChuteRecord :=
  { chute := 0, S := 100, tau := 24000, eyeLine := some 12, wOpen := 10, wClose := 20, wLate := 5, profile := prof,
    traceOn := true,
    trace := { m := 8, theta := 150, cMin := 1200, dipMin := 1500, dipMax := 3500, holdLo := 1300, holdHi := 1500 } }

/-- A state with that record and the two other records defined. -/
def recs (s : State) : State :=
  s.setZmr { s.zmr with
    chutes := s.zmr.chutes.set 0 (some chute0),
    eyes := s.zmr.eyes.set 4 (some { line := 20, X := 500, tol := 40, expected := some 900, lenTol := 60, passes := 4 }),
    drives := s.zmr.drives.set 0 (some { select := 2, base := 1200, maximum := 2000, checkMs := 20, riseLimit := 6,
                                         overshootLimit := 10, band := 3 }) }

/-- A trial of a target in a state, with what it holds. -/
def trial (number : Nat) (target : Target) (st : TrialState) (held : Held) : Trial :=
  { number := number, target := target, state := st, loadOrder := 0, hold := none, tArm := some 5, held := held,
    ending := .open_ }

/-- What a traced COIL trial on CC0 holds. -/
def heldCoil : Held := { channel := some 0, line := none, link := false, buffer := some 0, reservation := true }

/-- A COIL trial on chute 0, ACTIVE in slot 0, its channel in pull-in. -/
def coilRun : State :=
  (((recs .reset).setTrial 0 (some (trial 9 (.coil 0) .active heldCoil))).setChannel 0
    { Channel.reset with state := .pullIn, profile := some prof, owner := some { slot := 0, number := 9 }, remaining := 1,
                         p := some 8, tb := some 0 })

/-- The same with a FILLING trace of `n` samples in buffer 0, a scan begun and channel 0 next in it. -/
def tracing (n : Nat) (v : Adc) : State :=
  let tr : Trace := { newTrace 9 0 chute0.trace prof 0 with tb := some 0, samples := List.replicate n 500, nPull := n }
  (coilRun.setTru { coilRun.tru with buffers := coilRun.tru.buffers.set 0 (some tr), scanBegun := true,
                                     scanList := [(0, v)] }).setTtb
    { coilRun.ttb with channelHolder := coilRun.ttb.channelHolder.set 0 (some 0) }

/-- A fire list entry for slot 0 with fire point 1. -/
def entry : FireEntry :=
  { slot := 0, number := 9, channel := 0, S := 100, tray := 3, Q := 1, tau := 24000, lead := 0, F := 1, skip := 0,
    clamped := false }

/-- An ARMED CHUTE trial in slot 0 with that entry. -/
def armed : State :=
  ((recs (ltr encS)).setTrial 0 (some (trial 9 (.chute 0 none) .armed { heldCoil with line := some 12 }))).setFsc [entry]

/-- A watch in a state, for a fire at T = 0. -/
def watch (st : WatchState) : Watch :=
  { fire := { part := { tf := 0, tray := 3, position := 1, lead := 0, late := 0 }, leadClamped := false, lateFire := false },
    line := some 12, wOpen := 10, wClose := 20, wLate := 5, expiry := 25, state := st,
    arrival := none, arrivalRaw := some 3, dwell := none, extra := 15, stillBlocked := false, item := none }

/-- An eye line 12 with a watch of slot 0 at T = `t`. -/
def watching (t : Time) (st : WatchState) (v : Level) : State :=
  let s := line { State.reset with T := t } 12 .eye v
  s.setObu { s.obu with observers := s.obu.observers.set 12 (some { slot := 0, number := 9 }),
                        watches := s.obu.watches.set 0 (some (watch st)) }

/-- An eye observation with u = `u`, whose first expected pass is at u = 0. -/
def eyeObs (u : Int) (hits : List Nat) (lead : Option (EdgeJudgement × Int)) : EyeObservation :=
  { startObservation { line := 20, X := 500, tol := 40, expected := some 900, lenTol := 60, passes := 4 } enc with
    u := u, uE0 := 0, hitPasses := hits, lastLead := lead }

/-- An eye line 20 observed by the EYE trial of slot 0. -/
def observing (e : EyeObservation) (v : Level) : State :=
  let s := line ((recs .reset).setTrial 0 (some (trial 9 (.eye 4) .active { Held.nothing with line := some 20 }))) 20 .eye v
  s.setObu { s.obu with observers := s.obu.observers.set 20 (some { slot := 0, number := 9 }),
                        eyes := s.obu.eyes.set 0 (some e) }

/-- The latched values of a DRIVE trial. -/
def latch : DriveLatch :=
  { index := 0, step := 1800, vExp := 200, duration := 8,
    record := { select := 2, base := 1200, maximum := 1500, checkMs := 20, riseLimit := 6, overshootLimit := 10, band := 3 } }

/-- A DRIVE trial ACTIVE in slot 0 with the link in a state. -/
def driving (d : Dlk) : State :=
  (((State.reset.setTrial 0 (some (trial 9 (.drive 0 1800 200 8) .active { Held.nothing with link := true }))).setDlk
    { d with owner := some { slot := 0, number := 9 }, latch := some latch })).assertRequest true

/-- An exchange of a command, from T = 0. -/
def exchange (c : DriveCmd) : Option Exchange := some { cmd := c, value := 0, select := 2, start := 0 }

/-- The host line with bytes held since T = 0. -/
def holding (bs : List Byte) : State := State.reset.setHlk { Hlk.reset with held := bs.map fun b => (b, 0) }

/-- The host line with a frame of 6 bytes sent since T = 0, 521 µs of line time at 115,200 baud. -/
def sending (h : Hlk) : State := State.reset.setHlk { h with tx := some { frame := req 0x81 [], start := 0 } }

/-- A working machine: an ARMED CHUTE trial with its fire entry in slot 0, an EYE trial observed in slot 1, a DRIVE trial with the
link OWNED in slot 2, a COIL trial with its profile running on CC1 in slot 3, one verdict in the log, and the four single-holder
functions given. -/
def full : State :=
  let fns : List (LineNo × LineFn) := [(3, .home), (12, .eye), (20, .eye), (40, .stop), (44, .linkRequest), (45, .linkBusy)]
  let x : Lmx := { fns.foldl (fun x p => x.configure p.1 { LineConfig.reset with fn := p.2 }) Lmx.reset with asserted := true }
  let held : Held := { channel := some 0, line := some 12, link := false, buffer := none, reservation := true }
  let b : Ttb := { Ttb.reset with
    slots := (((Ttb.reset.slots.set 0 (some (trial 9 (.chute 0 none) .armed held))).set 1
        (some { trial 10 (.eye 4) .active { held with channel := none, line := some 20 } with loadOrder := 1 })).set 2
        (some { trial 11 (.drive 0 1800 200 8) .active { Held.nothing with link := true, reservation := true } with loadOrder := 2 })).set 3
        (some { trial 12 (.coil 1) .active { held with channel := some 1, line := none } with loadOrder := 3 }),
    loadCounter := 4,
    channelHolder := (Ttb.reset.channelHolder.set 0 (some 0)).set 1 (some 3),
    lineHolder := (Ttb.reset.lineHolder.set 12 (some 0)).set 20 (some 1), linkHolder := some 2 }
  let s := (((((recs (ltr encS)).setLmx x).setTtb b).setFsc [entry]).setObu { Obu.reset with
    eyes := Obu.reset.eyes.set 1 (some (eyeObs 0 [] none)),
    observers := Obu.reset.observers.set 20 (some { slot := 1, number := 10 }) }).setDlk
      { Dlk.reset with state := .owned, owner := some { slot := 2, number := 11 }, latch := some latch,
                       measurement := some (newMeasurement 100 200) }
  (s.setChannel 1 { Channel.reset with state := .pullIn, profile := some prof, owner := some { slot := 3, number := 12 },
                                       remaining := 2, p := some 0, tb := some 0 }).setVlg
    { records := [s.compose 1 (trial 8 (.eye 4) .active .nothing) none], reserved := 4, nextSerial := 1 }

/-! ## Well-formed commands -/

theorem test_wellFormed_refuses_long_time : Instr.wellFormed (.windowClose (2147483648#32)) = false := by decide
theorem test_wellFormed_accepts_longest_time : Instr.wellFormed (.windowClose (2147483647#32)) = true := by decide

/-- The table spells no command by bits. -/
theorem test_table_words_spell_none : decodeTableWord 8 0xC3 = none ∧ decodeTableWord 0 0 = none := by decide

/-! ## Loop tracker -/

/-- The first row of the worked example of R18: X = 10,000, H = 9,800, G = 512 gives k = 1, Q = 11,024. -/
theorem test_nextPass_ahead : ({ Ltr.reset with H := 9800 } : Ltr).nextPass 10000 512 = (1, 11024) := by decide +kernel
/-- Its second row, across the wrap: X = 100, H = 65,000 gives k = 0, Q = 100. -/
theorem test_nextPass_wraps : ({ Ltr.reset with H := 65000 } : Ltr).nextPass 100 512 = (0, 100) := by decide +kernel
/-- A forward count from L − 1 leaves H at 0 (R5). -/
theorem test_forwardCount_wraps :
    (next (exec (.forwardCount 0) (ltr { enc with H := 65535 }))).ltr.H = 0 := by decide +kernel
/-- A backward count from 0 leaves H at L − 1 and R at 1 (R5, R7). -/
theorem test_backwardCount_wraps :
    let u := next (exec (.backwardCount 0) (ltr enc))
    u.ltr.H = 65535 ∧ u.ltr.R = 1 ∧ u.ltr.n = -1 ∧ u.ltr.ref = some (.low, .high) := by decide +kernel
/-- The backward count that brings R to P/2 loses the position (R7, section 1.9). -/
theorem test_backwardCount_loses :
    (next (exec (.backwardCount 0) (ltr { encS with R := 511 }))).ltr.trust = .lost := by decide +kernel
theorem test_illegalTransition_loses : (next (exec (.illegalTransition 0) (ltr encS))).ltr.trust = .lost := by decide +kernel
theorem test_firstDecoderSample : (next (exec (.firstDecoderSample 0 .high .low) .reset)).ltr.ref = some (.high, .low) := by
  decide +kernel
/-- A window with no net motion is FORWARD with V = 0 (R9). -/
theorem test_windowClose_still :
    let u := next (exec (.windowClose 4096) .reset)
    u.ltr.V = 0 ∧ u.ltr.dir = .forward ∧ u.ltr.nextClose = 8192 ∧ u.T = 4096 := by decide +kernel
/-- A home edge at H = 1,439,988 on a loop of 1,440,000 is a correction of −12 (section 1.9). -/
theorem test_homeEdge_corrects :
    let s := line (ltr { encS with N := 240, P := 6000, HT := 1500, H := 1439988 }) 3 .home .low
    let u := next (exec (.acceptedEdge 0 3) s)
    u.ltr.H = 0 ∧ u.ltr.lastCorrection = -12 ∧ u.ltr.trust = .synced := by decide +kernel

/-! ## Host line -/

/-- The CRC of the bytes 0x31 to 0x39 is 0x29B1 (R178). -/
theorem test_crc_check_value :
    crc16 [0x31#8, 0x32#8, 0x33#8, 0x34#8, 0x35#8, 0x36#8, 0x37#8, 0x38#8, 0x39#8] = 0x29B1#16 := by decide +kernel
/-- A power reset with the straps HIGH, HIGH runs the line at 2,000,000 baud (R177). -/
theorem test_powerReset_straps : baud (next (exec (.powerReset .high .high) .reset)).hlk.strap = 2000000 := by decide +kernel
/-- A SOFT reset keeps T (R19). -/
theorem test_softReset_keeps_T :
    let u := next (exec (.softReset 5) { State.reset.setHlk { Hlk.reset with resetPhase := .due } with T := 4091 })
    u.T = 4096 ∧ u.ltr.nextClose = 8192 := by decide +kernel
theorem test_hostByteArrival_completes :
    let bs := (req 0x01 []).bytes
    (next (exec (.hostByteArrival 3 (bs.getLast!) .high) (holding bs.dropLast))).hlk.queue = [req 0x01 []] := by
  decide +kernel
theorem test_gapExpiry_drops : (next (exec (.gapExpiry 2001) (holding [0xC3#8, 2#8]))).hlk.held = [] := by decide +kernel
/-- The noise byte before a Status frame of tag 7 (section 11.9): when the gap runs out, the frame behind the noise is found. -/
theorem test_gapExpiry_finds_the_frame :
    (next (exec (.gapExpiry 2001) (holding (0xC3#8 :: (req 2 []).bytes)))).hlk.queue = [req 2 []] := by decide +kernel
/-- A frame with a wrong check and a start byte in its payload: the bytes from there on are held (R180). -/
theorem test_wrong_check_holds_the_rest :
    ((next (exec (.hostByteArrival 0 0 .high) (holding [0xC3#8, 1, 2, 7, 0xC3, 5]))).hlk.held.map Prod.fst) = [0xC3, 5, 0] := by
  decide +kernel
theorem test_gapExpiry_not_at_limit : next (exec (.gapExpiry 2000) (holding [0xC3#8, 2#8])) = holding [0xC3#8, 2#8] := by
  decide +kernel
theorem test_frameTransmitEnd_order :
    let h := { Hlk.reset with notices := { NoticeSet.empty with log := true, halt := true } }
    sent (next (exec (.frameTransmitEnd 521) (sending h))) = some { kind := 0xF1, tag := 0, payload := [0, 0, 0] } := by
  decide +kernel
theorem test_identify :
    sent (next (exec (.identify 0) (ask .reset 0x01 [])))
      = some { kind := 0x81, tag := 7, payload := [0x3A, 0x17, 0x0C, 0x10, 1, 48, 128, 16, 48, 4, 8, 0] } := by decide +kernel
theorem test_unknownKind :
    sent (next (exec (.unknownKind 0) (ask .reset 0x17 []))) = some { kind := 0xFE, tag := 7, payload := [0x17, 0x01] } := by
  decide +kernel
theorem test_status_clears_flags :
    let s := ask .reset 0x02 []
    let u := next (exec (.status 0) (s.setHlk { s.hlk with overrun := true }))
    u.hlk.overrun = false ∧ (sent u).map (fun f => f.payload.drop 41) = some [16, 0] := by decide +kernel
/-- A trial held for RESOURCE, code 5 in the order of R61, is in the list behind the flags (R63). -/
theorem test_status_reports_hold_reasons :
    let s := State.reset.setTrial 3 (some { trial 9 (.coil 0) .loaded .nothing with hold := some .resource })
    (sent (next (exec (.status 0) (ask s 0x02 [])))).map (fun f => f.payload.drop 41) = some [0, 1, 5] := by decide +kernel
theorem test_subscribe : (next (exec (.subscribe 0) (ask .reset 0x03 [0xF5]))).hlk.subs.mask = 5 := by decide +kernel
theorem test_reset_accepted : (next (exec (.reset 0) (ask .reset 0x04 []))).hlk.resetPhase = .replySending := by decide +kernel

/-! ## Requests -/

/-- SetLoop with N = 240, P = 6,000, HT = 2,000 replies L = 1,440,000 and HT = 1,500 (section 1.9). -/
theorem test_setLoop_clamps :
    sent (next (exec (.setLoop 0) (ask .reset 0x05 (beBytes 2 240 ++ beBytes 2 6000 ++ beBytes 2 2000))))
      = some { kind := 0x85, tag := 7,
               payload := beBytes 2 240 ++ beBytes 2 6000 ++ beBytes 3 1440000 ++ beBytes 2 1500 } := by decide +kernel
theorem test_setZone_overlap :
    sent (next (exec (.setZone 0) (ask .reset 0x06 (beBytes 2 10 ++ beBytes 2 17))))
      = some { kind := 0xFE, tag := 7, payload := [6, 6] } := by decide +kernel
theorem test_setZone_moves :
    (next (exec (.setZone 0) (ask (recs .reset) 0x06 (beBytes 2 312 ++ beBytes 2 8)))).zmr.chutes[(0 : Fin 16)] = none := by
  decide +kernel
theorem test_setChute :
    (next (exec (.setChute 0) (ask .reset 0x07 (beBytes 2 0 ++ chute0.bytes)))).zmr.chuteRecord 0 = some (0, chute0) := by
  decide +kernel
theorem test_setEye_bad_value :
    sent (next (exec (.setEye 0) (ask .reset 0x08 [16, 0, 0, 0, 0, 0, 0, 0, 0, 0, 0, 1])))
      = some { kind := 0xFE, tag := 7, payload := [8, 4] } := by decide +kernel
theorem test_setDrive_base_above_maximum :
    sent (next (exec (.setDrive 0) (ask .reset 0x09 [0, 0, 0, 2, 0, 1, 1, 0, 1, 0, 0, 0, 0])))
      = some { kind := 0xFE, tag := 7, payload := [9, 4] } := by decide +kernel
theorem test_setLine_takes_holder :
    (next (exec (.setLine 0) (ask .reset 0x0A [3, 0, 0, 0, 0, 1, 3, 2]))).lmx.homeHolder = some 3 := by decide +kernel
theorem test_setLine_claimed :
    let s := (line .reset 3 .home .low)
    sent (next (exec (.setLine 0) (ask (s.setLmx { s.lmx with homeHolder := some 3 }) 0x0A [4, 0, 0, 0, 0, 1, 3, 2])))
      = some { kind := 0xFE, tag := 7, payload := [10, 7] } := by decide +kernel
theorem test_readLines_length :
    (sent (next (exec (.readLines 0) (ask .reset 0x0B [])))).map (fun f => f.payload.length) = some 192 := by decide +kernel
theorem test_readAnalog_waits :
    (next (exec (.readAnalog 0) (ask .reset 0x0C [1, 19, 0, 0, 0]))).tru.pendingReads = [.general 3] := by decide +kernel
/-- A COIL trial arms at once and its profile is handed over. -/
theorem test_loadTrial_arms :
    let u := next (exec (.loadTrial 9) (ask (recs .reset) 0x0D [0, 9, 1, 0, 0, 0, 0, 0, 0, 0, 0, 0, 0]))
    (u.channel 0).startPending = true ∧ u.vlg.reserved = 1
      ∧ sent u = some { kind := 0x8D, tag := 7, payload := [0, 0, 0, 0, 0, 0, 2, 0] } := by decide +kernel
theorem test_loadTrial_no_record :
    sent (next (exec (.loadTrial 9) (ask .reset 0x0D [0, 9, 1, 0, 0, 0, 0, 0, 0, 0, 0, 0, 0])))
      = some { kind := 0xFE, tag := 7, payload := [0x0D, 0x0C] } := by decide +kernel
theorem test_cancelTrial_armed :
    let u := next (exec (.cancelTrial 0) (ask armed 0x0E [0, 9]))
    u.fsc = [] ∧ u.vlg.records.map Verdict.outcome = [.cancelled] := by decide +kernel
theorem test_cancelAll_counts :
    sent (next (exec (.cancelAll 0) (ask armed 0x0F []))) = some { kind := 0x8F, tag := 7, payload := [0, 1, 0] } := by
  decide +kernel
theorem test_readTable_entry :
    sent (next (exec (.readTable 0) (ask armed 0x10 []))) = some { kind := 0x90, tag := 7, payload := [0, 0, 9, 1, 0] } := by
  decide +kernel
theorem test_readLog_empty :
    sent (next (exec (.readLog 0) (ask .reset 0x11 [8]))) = some { kind := 0x91, tag := 7, payload := [0, 0, 0] } := by
  decide +kernel
theorem test_readTrace_gone :
    sent (next (exec (.readTrace 0) (ask .reset 0x12 [0, 9, 0, 0, 1]))) = some { kind := 0xFE, tag := 7, payload := [18, 16] } := by
  decide +kernel
theorem test_halt_reply :
    sent (next (exec (.halt 0) (ask .reset 0x13 []))) = some { kind := 0x93, tag := 7, payload := [1, 1] } := by decide +kernel
theorem test_resume_running :
    sent (next (exec (.resume 0) (ask .reset 0x14 []))) = some { kind := 0x94, tag := 7, payload := [0] } := by decide +kernel
theorem test_clearChannel_not_faulted :
    sent (next (exec (.clearChannel 0) (ask .reset 0x15 [0]))) = some { kind := 0xFE, tag := 7, payload := [21, 18] } := by
  decide +kernel
theorem test_linkRestart_idle :
    sent (next (exec (.linkRestart 0) (ask .reset 0x16 []))) = some { kind := 0x96, tag := 7, payload := [0] } := by
  decide +kernel

/-! ## Coils, traces, watches, drive link -/

/-- A pending profile starts at the boundary with p = 0 and t_b its T (R100, R101). -/
theorem test_periodBoundary_starts :
    let s := State.reset.setChannel 0 ({ Channel.reset with guard := 0 }.handOver prof { slot := 0, number := 9 })
    let u := next (exec (.periodBoundary 50) s)
    (u.channel 0).state = .pullIn ∧ (u.channel 0).p = some 0 ∧ (u.channel 0).tb = some 50 ∧ (u.channel 0).pullDuty = 256 := by
  decide +kernel
theorem test_scanStart_lists :
    (next (exec (.scanStart 25 (Vector.replicate 16 77)) coilRun)).tru.scanList = [(0, 77)] := by decide +kernel
theorem test_sampleDelivery_trips :
    let u := next (exec (.sampleDelivery 26) (tracing 0 3800))
    (u.channel 0).state = .fault ∧ u.vlg.records.map Verdict.outcome = [.coilFault] := by decide +kernel
theorem test_sampleDelivery_full :
    ((next (exec (.sampleDelivery 26) (tracing 255 3799))).tru.buffers[(0 : Fin 4)]).map (fun t => t.completion.map (·.1))
      = some (some .full) := by decide +kernel
/-- A coil that dips at sample 30 of an every-8th trace has its dip at 30 × 8 × 50 + 25 µs (R125). -/
theorem test_dip_time : dipTime 8 30 = 12025 := by decide
theorem test_analogRead :
    let s := (State.reset.setTru { Tru.reset with scanBegun := true, pendingReads := [.general 1], readsJoined := true }).setHlk
      { Hlk.reset with handler := .waiting 3 }
    sent (next (exec (.analogReadConversionEnd 26 0xABC) s))
      = some { kind := 0x8C, tag := 3, payload := [1, 17, 0x0A, 0xBC, 0, 0, 0, 26] } := by decide +kernel
theorem test_watchExpiry_missing :
    ((next (exec (.watchExpiry 25 0) (watching 0 .opened .low))).obu.watches[(0 : Fin 48)]).map Watch.item
      = some (some .missing) := by decide +kernel
theorem test_lineSample_counts : ((next (exec (.lineSample 0 5 .high) .reset)).line 5).accepted = .high := by decide +kernel
/-- The step's SETPOINT is clamped to the drive's maximum (R155). -/
theorem test_checkDeadline_clamps :
    (next (exec (.checkDeadline 20000) (driving { Dlk.reset with state := .checking, deadline := some 20000 }))).dlk.cur
      = some { cmd := .step, value := 1500, select := 2, start := 20000 } := by decide +kernel
theorem test_exchangeEnd_link_error :
    let u := next (exec (.exchangeEnd 80 0 0 0 0) (driving { Dlk.reset with state := .owned, cur := exchange .step }))
    u.dlk.state = .fault ∧ u.vlg.records.map Verdict.outcome = [.driveLinkError] := by decide +kernel

/-- DCLK rests LOW, runs in the clocks of an exchange, and holds LOW in the turnaround (R152). -/
theorem test_dclk_levels :
    let s := driving { Dlk.reset with state := .owned, cur := exchange .query }
    State.reset.dclkPin 5 true = .low ∧ s.dclkPin 1 true = .low ∧ (s.dclkPin 2 false = .low ∧ s.dclkPin 2 true = .high)
      ∧ s.dclkPin 34 true = .low ∧ s.dclkPin 38 true = .high ∧ s.dclkPin 70 true = .low := by decide +kernel
/-- HTXD is HIGH with no frame; a frame begins with the start bit, then bit 0 of 0xC3, 8.68 µs each at 115,200 baud (R177). -/
theorem test_htxd_levels :
    let s := sending .reset
    State.reset.htxdPin 5 0 = .high ∧ s.htxdPin 0 0 = .low ∧ s.htxdPin 8 600 = .low ∧ s.htxdPin 8 700 = .high := by
  decide +kernel

/-! ## Witnesses: for each obligation with hypotheses, states and operands that meet them, clause by clause -/

theorem no_trials : ∀ k : Slot, State.reset.trial k = none := by decide +kernel

theorem none_begun {p : Trial → Prop} : ¬∃ (k : Slot) (t : Trial), State.reset.trial k = some t ∧ p t := by
  rintro ⟨k, t, h, _⟩; rw [no_trials] at h; cases h

theorem no_target {P : Nat → Prop} : ¬∃ (k : Slot) (t : Trial) (c : Nat), State.reset.trial k = some t ∧ t.target.chute? = some c ∧ P c := by
  rintro ⟨k, t, c, h, _⟩; rw [no_trials] at h; cases h

theorem unaimed_reset : State.reset.Unaimed := by unfold State.Unaimed; decide +kernel

/-- A ripe line's edge is ready in both senses. -/
theorem line_ready (s : State) (l : LineNo) (fn : LineFn) :
    (line s l fn .low).EdgeReady l fn true ∧ (line s l fn .high).EdgeReady l fn false := by
  have h : ∀ v, (line s l fn v).line l = { cfg := { LineConfig.reset with fn := fn }, accepted := v, started := true, c := 3 } :=
    fun v => by simp [line, State.line, State.setLine, State.setLmx]
  unfold State.EdgeReady
  simp only [h]
  simp [LineConfig.reset, Level.other]

/-- What holds of each slot and of each channel of a state, and of its fire list and its link's owner, ties it. -/
theorem tied_of {s : State}
    (hf : ∀ e ∈ s.fsc, (s.trial e.slot).any fun t => decide (t.state = .armed) && decide (t.target.kind = .chute)
      && decide (t.number = e.number) && decide (t.held.channel = some e.channel))
    (ha : s.fsc.Pairwise fun a b => a.slot ≠ b.slot)
    (hk : ∀ k : Slot,
      ((s.obu.watches[k]).isNone || (s.trial k).any fun t => decide (t.state = .active) && decide (t.target.kind = .chute))
      ∧ s.obu.coils[k] = none
      ∧ ((s.obu.eyes[k]).isSome = (s.trial k).any fun t => decide (t.state = .active) && decide (t.target.kind = .eye))
      ∧ (s.trial k).all fun t => !(decide (t.state = .active) && decide (t.target.kind = .drive))
          || (decide (s.dlk.owner = some { slot := k, number := t.number }) && s.dlk.state.engaged))
    (ho : s.dlk.owner.all fun o => (s.trial o.slot).any fun t => decide (t.state = .active) && decide (t.target.kind = .drive)
      && decide (t.number = o.number))
    (hc : ∀ c : Chan, (s.channel c).owner.all fun o => ((s.channel c).startPending || (s.channel c).state.running)
      && (s.trial o.slot).any fun t => decide (t.state = .active) && (decide (t.target.kind = .chute) || decide (t.target.kind = .coil))
        && decide (t.number = o.number) && decide (t.held.channel = some c)) : s.Tied := by
  refine ⟨fun e he => ?_, ha, fun k h => ?_, fun k => ?_, fun o h => ?_, fun k t h h1 h2 => ?_, fun c o h => ?_,
    fun c o h => ?_, fun k h => absurd (hk k).2.1 h⟩
  · obtain ⟨t, h, h'⟩ := Option.any_eq_true _ _ |>.mp (hf e he)
    exact ⟨t, h, by simpa [and_assoc] using h'⟩
  · have hw := (hk k).1
    rw [Option.isNone_eq_false_iff.mpr (Option.isSome_iff_ne_none.mpr h), Bool.false_or] at hw
    obtain ⟨t, h, h'⟩ := Option.any_eq_true _ _ |>.mp hw
    exact ⟨t, h, by simpa using h'⟩
  · have h := (hk k).2.2.1
    cases he : s.obu.eyes[k] <;> cases ht : s.trial k <;> simp_all
  · simp only [h, Option.all_some] at ho
    obtain ⟨t, h, h'⟩ := Option.any_eq_true _ _ |>.mp ho
    exact ⟨t, h, by simpa [and_assoc] using h'⟩
  · have := (hk k).2.2.2
    simpa [h, h1, h2] using this
  · have := hc c
    simp only [h, Option.all_some, Bool.and_eq_true] at this
    obtain ⟨t, h, h'⟩ := Option.any_eq_true _ _ |>.mp this.2
    exact ⟨t, h, by simpa [and_assoc] using h'⟩
  · have := hc c
    simp only [h, Option.all_some, Bool.and_eq_true, Bool.or_eq_true] at this
    exact this.1

theorem full_tied : full.Tied :=
  tied_of (by decide +kernel) (by decide +kernel) (by decide +kernel) (by decide +kernel) (by decide +kernel)

/-- What holds of each pair of slots and of each holder of a table without a LOADED trial makes it sound. -/
theorem ttb_of {b : Ttb}
    (h1 : ∀ j k : Slot, (b.slots[j]).map Trial.number = (b.slots[k]).map Trial.number → b.slots[j] = none ∨ j = k)
    (h2 : ∀ k : Slot, (b.slots[k]).all fun t => decide (t.state ≠ .loaded))
    (h3 : ∀ (c : Chan) (k : Slot), b.channelHolder[c] = some k ↔ (b.slots[k]).bind (fun t => t.held.channel) = some c)
    (h4 : ∀ (l : LineNo) (k : Slot), b.lineHolder[l] = some k ↔ (b.slots[k]).bind (fun t => t.held.line) = some l) : b.Sound := by
  refine ⟨fun j k t u ht hu h => ?_, fun k t ht h => ?_, fun c k => ?_, fun l k => ?_⟩
  · have := h1 j k (by rw [ht, hu]; simp [h])
    simpa [ht] using this
  · have := h2 k
    simp [ht, h] at this
  · rw [h3, Option.bind_eq_some_iff]
  · rw [h4, Option.bind_eq_some_iff]

theorem full_ttb : full.ttb.Sound := ttb_of (by decide +kernel) (by decide +kernel) (by decide +kernel) (by decide +kernel)

theorem full_zmr : full.zmr.Sound := by
  have h1 : ∀ n : Chan, full.zmr.chutes[n] = if n = 0 then some chute0 else none := by decide +kernel
  have h2 : ∀ k : Fin 16, (full.zmr.eyes[k]).all fun r => decide (1 ≤ r.passes ∧ r.passes ≤ 255) := by decide +kernel
  have h3 : ∀ k : Fin 8, (full.zmr.drives[k]).all fun r =>
    decide (r.base ≤ r.maximum ∧ (1 ≤ r.checkMs ∧ r.checkMs ≤ 255) ∧ (1 ≤ r.riseLimit ∧ r.riseLimit ≤ 1000)) := by decide +kernel
  refine ⟨by decide, by decide, fun n r h => ?_, fun k r h => ?_, fun k r h => ?_⟩
  · rw [h1] at h
    split at h
    · next hn => cases h; cases hn; decide +kernel
    · cases h
  · simpa [h] using h2 k
  · simpa [h] using h3 k

theorem full_lmx : full.lmx.Sound := by
  have h : ∀ l : LineNo, ∀ f ∈ [LineFn.home, .stop, .linkRequest, .linkBusy],
      (full.lmx.lines[l]).cfg.fn = f ↔ full.lmx.holderOf f = some l := by decide +kernel
  intro l f hf
  exact h l f (by cases f <;> first | decide | cases hf)

theorem full_serial : full.vlg.Serial := by
  intro i h
  have : i = 0 := by have : full.vlg.records.length = 1 := rfl; omega
  subst this; rfl

theorem full_placed : full.Placed :=
  ⟨by unfold Ltr.Sound; decide +kernel, full_ttb, full_tied, by unfold FireEntry.Placed; decide +kernel⟩

/-- The working machine with its link in another state at work for the trial of slot 2. -/
def linked (st : LinkState) : State := full.setDlk { full.dlk with state := st }

theorem linked_tied (st : LinkState) (h : st.engaged = true) : (linked st).Tied := by
  cases st <;>
    first
    | cases h; done
    | exact tied_of (by decide +kernel) (by decide +kernel) (by decide +kernel) (by decide +kernel) (by decide +kernel)

theorem witness_StepTakesTheFrontCommand : State.reset.pending = [] := rfl

theorem witness_SoftResetValues : (State.reset.setHlk { Hlk.reset with resetPhase := .due }).hlk.resetPhase = .due := rfl

/-- No observation, one that a forward count ends, and one that it does not. -/
theorem witness_ForwardCountMovesH :
    ((ltr enc).ltr.ref = some (.low, .low) ∧ decoderStep (.low, .low) (.high, .low) = .forward ∧ (ltr enc).Unaimed)
      ∧ ∀ u ∈ [3582, 3583],
        let e := { eyeObs u [0, 2] none with uEnd := 3584 }
        let s := (observing e .low).setLtr enc
        s.ltr.ref = some (.low, .low) ∧ s.trial 0 = some (trial 9 (.eye 4) .active { Held.nothing with line := some 20 })
          ∧ s.obu.eyes[(0 : Slot)] = some e ∧ (e.uEnd ≤ e.u + 1 ↔ u = 3583) ∧ 1 ≤ e.passes ∧ e.closed ≤ e.passes
          ∧ e.uEnd = e.uE0 + ((e.passes - 1) * s.ltr.P + s.ltr.P / 2 : Nat) ∧ ∀ j : Slot, j ≠ 0 → s.obu.eyes[j] = none := by
  unfold State.Unaimed; decide +kernel

theorem witness_BackwardCountMovesH :
    let lost := fun (s : State) => s.ltr.trust = .synced
      ∧ (if s.ltr.R < 65535 then s.ltr.R + 1 else 65535) = s.ltr.P / 2
    decoderStep (.low, .low) (.low, .high) = .backward
      ∧ ((ltr { encS with R := 511 }).ltr.ref = some (.low, .low) ∧ lost (ltr { encS with R := 511 }))
      ∧ ((ltr enc).ltr.ref = some (.low, .low) ∧ ¬lost (ltr enc) ∧ (ltr enc).Unaimed)
      ∧ (lost (full.setLtr { encS with R := 511 }) ∧ (full.setLtr { encS with R := 511 }).Tied)
      ∧ full.ltr.ref = some (.low, .low) ∧ ¬lost full ∧ (full.trial 1).map Trial.state = some .active
      ∧ full.obu.eyes[(1 : Slot)] = some (eyeObs 0 [] none) := by
  refine ⟨by decide +kernel, by decide +kernel, ?_, ⟨by decide +kernel, full_tied.setLtr _⟩, by decide +kernel⟩
  unfold State.Unaimed; decide +kernel

theorem witness_DecoderSamples :
    State.reset.ltr.ref = none ∧ (ltr enc).ltr.ref = some (.low, .low) ∧ (ltr enc).ltr.trust ≠ .synced
      ∧ ((ltr encS).ltr.ref = some (.low, .low) ∧ (ltr encS).ltr.trust = .synced)
      ∧ full.ltr.ref = some (.low, .low) ∧ full.ltr.trust = .synced ∧ full.Tied :=
  ⟨rfl, rfl, by decide, ⟨rfl, rfl⟩, rfl, rfl, full_tied⟩

theorem witness_WindowCloseSetsV :
    (State.reset.T + 4096 = State.reset.ltr.nextClose ∧ State.reset.Unaimed ∧ State.reset.dlk.state ≠ .owned)
      ∧ full.T + 4096 = full.ltr.nextClose ∧ (full.setLtr { encS with n := -1 }).ltr.n < 0
      ∧ (full.setLtr { encS with n := -1 }).Tied :=
  ⟨⟨rfl, unaimed_reset, by decide⟩, rfl, by decide, full_tied.setLtr _⟩

/-- Both bounds of X and of G. -/
theorem witness_NextPassWithinOnePitch :
    (16 ≤ Ltr.reset.N ∧ 64 ≤ Ltr.reset.P ∧ Ltr.reset.H < Ltr.reset.N * Ltr.reset.P)
      ∧ (0 < Ltr.reset.N * Ltr.reset.P ∧ 0 ≤ 15 * Ltr.reset.P)
      ∧ 65535 < Ltr.reset.N * Ltr.reset.P ∧ 15360 ≤ 15 * Ltr.reset.P := by
  decide +kernel

/-- Ignored, sync, correction at the limit HT on either side, loss just beyond it; and a jump of 16 forward that leaves an EYE trial
one count short of its end or ends it. -/
theorem witness_HomeEdgeSyncsCorrectsOrLoses :
    (∀ l, (line (ltr l) 3 .home .low).EdgeReady 3 .home true)
      ∧ (line (ltr { encS with dir := .reverse }) 3 .home .low).ltr.dir = .reverse
      ∧ ((line (ltr enc) 3 .home .low).ltr.dir = .forward ∧ (line (ltr enc) 3 .home .low).ltr.trust ≠ .synced)
      ∧ (let s := line (ltr { encS with H := 16 }) 3 .home .low;
          s.ltr.dir = .forward ∧ s.ltr.trust = .synced ∧ ((16 : Nat) : Int).natAbs ≤ s.ltr.HT ∧ s.Unaimed)
      ∧ (let s := line (ltr { encS with H := 65520 }) 3 .home .low;
          s.ltr.trust = .synced ∧ ((65520 : Nat) - (64 * 1024 : Nat) : Int).natAbs ≤ s.ltr.HT)
      ∧ (let s := line (ltr { encS with H := 17 }) 3 .home .low;
          s.ltr.dir = .forward ∧ s.ltr.trust = .synced ∧ s.ltr.HT < ((17 : Nat) : Int).natAbs)
      ∧ ((line (full.setLtr { encS with H := 17 }) 3 .home .low).EdgeReady 3 .home true
        ∧ (line (full.setLtr { encS with H := 17 }) 3 .home .low).Tied)
      ∧ ∀ u ∈ [3567, 3568],
        let e := { eyeObs u [0, 2] none with uEnd := 3584 }
        let s := line ((observing e .low).setLtr { encS with H := 65520 }) 3 .home .low
        s.EdgeReady 3 .home true ∧ s.ltr.dir = .forward ∧ s.ltr.trust = .synced ∧ -16 = (65520 : Int) - (s.ltr.N * s.ltr.P : Nat)
          ∧ s.trial 0 = some (trial 9 (.eye 4) .active { Held.nothing with line := some 20 }) ∧ s.obu.eyes[(0 : Slot)] = some e
          ∧ (e.uEnd ≤ e.u + (-16 : Int).natAbs ↔ u = 3568) ∧ 1 ≤ e.passes ∧ e.closed ≤ e.passes
          ∧ e.uEnd = e.uE0 + ((e.passes - 1) * s.ltr.P + s.ltr.P / 2 : Nat) ∧ ∀ j : Slot, j ≠ 0 → s.obu.eyes[j] = none := by
  refine ⟨fun l => (line_ready _ _ _).1, rfl, ?_, ?_, by decide +kernel, by decide +kernel, ⟨(line_ready _ _ _).1,
    (full_tied.setLtr _).setLmx _⟩, ?_⟩
  · decide +kernel
  · unfold State.Unaimed; decide +kernel
  · unfold State.EdgeReady; decide +kernel

theorem witness_LeadIsTravelInLatency :
    entry.tau = 24000 ∧ Ltr.reset.V ≤ 65535 ∧ (65535 : Nat) ≤ 65535 ∧ Ltr.reset.V = 0 ∧ 0 < Ltr.reset.L := by decide +kernel

/-- A count that meets a fire point, a refresh at V = 0, and a home edge 6 counts short of the loop with a fire point 2 ahead. -/
theorem witness_ForwardCrossingFires :
    let jump := line ((armed.setLtr { encS with H := 65530 }).setFsc [{ entry with F := 65532 }]) 3 .home .low
    ((∀ k : Slot, armed.obu.eyes[k] = none) ∧ armed.fsc.Pairwise (fun a b => a.slot ≠ b.slot ∧ a.channel ≠ b.channel))
      ∧ (armed.ltr.ref.isSome ∧ entry ∈ armed.fsc ∧ entry.F = (armed.ltr.H + 1) % (armed.ltr.N * armed.ltr.P) ∧ entry.skip = 0)
      ∧ ((armed.trial entry.slot).map Trial.state = some .armed ∧ armed.zmr.chuteRecord 0 = some (0, chute0)
          ∧ chute0.eyeLine = some 12 ∧ 0 < chute0.wClose + chute0.wLate)
      ∧ (armed.T + 4096 = armed.ltr.nextClose ∧ 0 ≤ armed.ltr.n)
      ∧ (jump.EdgeReady 3 .home true ∧ jump.ltr.dir = .forward ∧ jump.ltr.trust = .synced
          ∧ jump.ltr.N * jump.ltr.P ≤ 2 * jump.ltr.H ∧ jump.ltr.H < jump.ltr.N * jump.ltr.P
          ∧ jump.ltr.N * jump.ltr.P - jump.ltr.H ≤ jump.ltr.HT ∧ (∀ k : Slot, jump.obu.eyes[k] = none)) := by
  refine ⟨by decide +kernel, by decide +kernel, by decide +kernel, by decide +kernel, (line_ready _ _ _).1, ?_⟩
  decide +kernel

/-- An aimed entry at every clause: kept and fired by a count, a correction to either side, a refresh. -/
theorem witness_EntryKeepsItsTargetPass :
    encS.Sound ∧ entry.Aimed encS ∧ (entry.onForward encS.forward.H).kept = none
      ∧ { encS with H := 7 }.Sound ∧ entry.Aimed { encS with H := 7 }
      ∧ (entry.onForward ({ encS with H := 7 } : Ltr).forward.H).kept = some entry
      ∧ (entry.onBackward 0 = .keep entry ∧ entry.skip = 0)
      ∧ ({ encS with H := 65530 } : Ltr).Sound ∧ entry.Aimed { encS with H := 65530 }
      ∧ ({ encS with H := 65530 } : Ltr).homeOffset = -((6 : Nat) : Int)
      ∧ ({ encS with H := 7 } : Ltr).homeOffset = ((7 : Nat) : Int)
      ∧ ((entry.onCorrection { encS with H := 7 } 7).kept.isSome ∧ entry.skip = 0)
      ∧ 65535 < encS.L ∧ full.Placed ∧ full.fsc = [entry] ∧ step full = .next full := by
  refine ⟨?_, ?_, by decide +kernel, ?_, ?_, by decide +kernel, by decide +kernel, ?_, ?_, by decide +kernel, by decide +kernel,
    by decide +kernel, by decide +kernel, full_placed, rfl, rfl⟩
  all_goals first | (unfold Ltr.Sound; decide +kernel) | (unfold FireEntry.Aimed; decide +kernel)

theorem witness_LineSamplesAndUntakenEdges :
    (State.reset.line 0).started = false ∧ ((line .reset 3 .eye .low).line 3).started = true
      ∧ (let s := State.reset.setLine 3 { FieldLine.reset with started := true, c := 2 };
          (s.line 3).started = true ∧ (s.line 3).c < (s.line 3).cfg.g)
      ∧ (line .reset 3 .unused .low).EdgeReady 3 .unused true ∧ (line .reset 3 .linkRequest .high).EdgeReady 3 .linkRequest false
      ∧ (line .reset 3 .home .high).EdgeReady 3 .home false ∧ (line .reset 3 .stop .high).EdgeReady 3 .stop false
      ∧ (line .reset 3 .linkBusy .high).EdgeReady 3 .linkBusy false
      ∧ ((line .reset 3 .eye .low).EdgeReady 3 .eye true ∧ (line .reset 3 .eye .low).obu.observers[(3 : LineNo)] = none) := by
  unfold State.EdgeReady; decide +kernel

/-- The arrival at T = t has the raw time t − 5: on the first and the last microsecond of a range of R131, and out of range. -/
theorem witness_EyeEdgeOfAWatch :
    (∀ t st, (watching t st .low).EdgeReady 12 .eye true ∧ (watching t st .high).EdgeReady 12 .eye false
        ∧ (watching t st .low).obu.observers[(12 : LineNo)] = some { slot := 0, number := 9 }
        ∧ (watching t st .low).obu.watches[(0 : Slot)] = some (watch st)
        ∧ (watching t st .high).obu.watches[(0 : Slot)] = some (watch st))
      ∧ ((14 : Time) - 5 - 0).toNat < (watch .opened).wOpen ∧ ((15 : Time) - 5 - 0).toNat = (watch .opened).wOpen
      ∧ ((25 : Time) - 5 - 0).toNat = (watch .opened).wClose ∧ (watch .opened).wClose < ((26 : Time) - 5 - 0).toNat
      ∧ 2 ^ 31 ≤ ((0 : Time) - 5 - 0).toNat ∧ (watch .arrived).arrivalRaw = some 3 ∧ (watch .dwellTaken).extra = 15 := by
  refine ⟨fun t st => ?_, by decide +kernel⟩
  exact ⟨(line_ready _ _ _).1, (line_ready _ _ _).2, rfl, rfl, rfl⟩

/-- A HIT at the tolerance on either side, an EXTRA, a STRAY just beyond, a length within and beyond its tolerance. -/
theorem witness_EyePassEdgeJudged :
    (∀ e, (observing e .low).EdgeReady 20 .eye true ∧ (observing e .high).EdgeReady 20 .eye false
        ∧ (observing e .low).obu.observers[(20 : LineNo)] = some { slot := 0, number := 9 }
        ∧ (observing e .low).obu.watches[(0 : Slot)] = none ∧ (observing e .low).obu.eyes[(0 : Slot)] = some e
        ∧ (observing e .high).obu.eyes[(0 : Slot)] = some e)
      ∧ (eyeObs 40 [] none).judge 1024 40 = .hit ∧ (eyeObs (-40) [] none).judge 1024 (-40) = .hit
      ∧ (eyeObs 40 [0] none).judge 1024 40 = .extra ∧ (eyeObs 41 [] none).judge 1024 41 = .stray
      ∧ (eyeObs 1000 [0] (some (.hit, 40))).lengthFails (1000 - 40) = false
      ∧ (eyeObs 1001 [0] (some (.hit, 40))).lengthFails (1001 - 40) = true
      ∧ (∀ from_, (eyeObs 0 [] none).lastLead ≠ some (.hit, from_)) := by
  refine ⟨fun e => ?_, by decide +kernel, by decide +kernel, by decide +kernel, by decide +kernel, by decide +kernel,
    by decide +kernel, fun _ h => by cases h⟩
  exact ⟨(line_ready _ _ _).1, (line_ready _ _ _).2, rfl, rfl, rfl, rfl⟩

theorem witness_StopEdgeHalts :
    (line armed 40 .stop .low).EdgeReady 40 .stop true ∧ (line armed 40 .stop .low).ttb.run = .running
      ∧ (line (armed.setTtb { armed.ttb with run := .halted .halt }) 40 .stop .low).EdgeReady 40 .stop true
      ∧ (line (armed.setTtb { armed.ttb with run := .halted .halt }) 40 .stop .low).ttb.run = .halted .halt
      ∧ (∀ st, st.engaged = true → (line (linked st) 40 .stop .low).EdgeReady 40 .stop true ∧ (line (linked st) 40 .stop .low).Tied)
      ∧ (line full 40 .stop .low).ttb.Sound ∧ full.fsc = [entry] ∧ (full.obu.eyes[(1 : Slot)]).isSome := by
  refine ⟨(line_ready _ _ _).1, rfl, (line_ready _ _ _).1, rfl,
    fun st h => ⟨(line_ready _ _ _).1, (linked_tied st h).setLmx _⟩, full_ttb, rfl, rfl⟩

/-- Every state asked of, with an idle handler and nothing else queued, serves its request. -/
theorem serves (s : State) (kind : Byte) (payload : List Byte) (h : s.hlk = Hlk.reset) :
    (ask s kind payload).Serves (req kind payload) [] := by
  refine And.intro ?_ ⟨?_, ?_, rfl⟩ <;> (simp only [ask, State.setHlk]; rw [h]; rfl)

theorem witness_HaltRequestHalts :
    (ask coilRun 0x13 []).Serves (req 0x13 []) [] ∧ (ask coilRun 0x13 []).ttb.run = .running
      ∧ (∀ c, (ask (coilRun.setTtb { coilRun.ttb with run := .halted c }) 0x13 []).Serves (req 0x13 []) []
          ∧ (ask (coilRun.setTtb { coilRun.ttb with run := .halted c }) 0x13 []).ttb.run = .halted c)
      ∧ (ask full 0x13 []).Serves (req 0x13 []) [] ∧ (ask full 0x13 []).Tied ∧ full.ttb.Sound :=
  ⟨serves _ _ _ rfl, rfl, fun _ => ⟨serves _ _ _ rfl, rfl⟩, serves _ _ _ rfl, full_tied.setHlk _, full_ttb⟩

theorem witness_BusyEdgeTakesTheDriveBack :
    let s := fun (st : LinkState) => line (driving { Dlk.reset with state := st, cur := exchange .query }) 45 .linkBusy .low
    let m := line (driving { Dlk.reset with state := .owned, cur := exchange .query, badQuery := 1,
                                            measurement := some (newMeasurement 100 200) }) 45 .linkBusy .low
    (m.EdgeReady 45 .linkBusy true ∧ m.dlk.latch = some latch ∧ m.dlk.measurement = some (newMeasurement 100 200)
        ∧ m.dlk.badQuery = 1)
      ∧ (∀ st, (s st).EdgeReady 45 .linkBusy true ∧ (s st).dlk.state = st ∧ (s st).dlk.owner = some { slot := 0, number := 9 }
        ∧ (s st).trial 0 = some (trial 9 (.drive 0 1800 200 8) .active { Held.nothing with link := true }))
      ∧ (s .owned).anyLoaded = false ∧ (s .releasing).anyLoaded = false := by
  exact ⟨⟨(line_ready _ _ _).1, rfl, rfl, rfl⟩, fun st => ⟨(line_ready _ _ _).1, rfl, rfl, rfl⟩,
    by decide +kernel, by decide +kernel⟩

/-- A DRIVE trial that a Halt request ABORTED, still releasing after a Resume, takes the reason STOP when a STOP enters HALTED anew, and
one that was CANCELLED stays so (R72, R73, R145). -/
theorem test_stop_enters_anew_over_aborted_halt :
    let s := fun (e : TrialEnd) => line ((driving { Dlk.reset with state := .releasing, cur := exchange .query, plan := [.base, .release] }).setTrial 0
      (some { trial 9 (.drive 0 1800 200 8) .active { Held.nothing with link := true } with ending := e })) 40 .stop .low
    let u := fun (e : TrialEnd) => next (exec (.acceptedEdge 4 40) (s e))
    (u (.aborted .halt)).ttb.run = .halted .stop ∧ ((u (.aborted .halt)).trial 0).map Trial.ending = some (.aborted .stop)
      ∧ ((u .cancelled).trial 0).map Trial.ending = some .cancelled := by decide +kernel

/-- A take-back leaves the bad QUERY count and the indications as they were, with the owner gone (R162, R166); a link error does not keep
the indications (R165); and the next arming clears them (R154). -/
theorem test_indications_after_the_report :
    let d : Dlk := { Dlk.reset with state := .owned, cur := exchange .query, badQuery := 1, faultSeen := true, setpointClamped := true }
    let u := (next (exec (.acceptedEdge 40 45) (line (driving d) 45 .linkBusy .low))).dlk
    let v := (next (exec (.exchangeEnd 80 0 0 0 0) (driving d))).dlk
    let w := u.startCheck { slot := 1, number := 10 } latch 0 false
    (u.state = .idle ∧ u.owner = none ∧ u.badQuery = 1 ∧ u.faultSeen = true ∧ u.setpointClamped = true ∧ u.abort = some .takenBack)
      ∧ (v.state = .fault ∧ v.faultSeen = false ∧ v.linkError = false ∧ v.setpointClamped = false ∧ v.latch = none)
      ∧ w.badQuery = 0 ∧ w.faultSeen = false ∧ w.setpointClamped = false ∧ w.abort = none := by decide +kernel

/-- The working machine at the last period of a profile on CC1: of the COIL trial of slot 3 as it is, or of a CHUTE trial in its place
with a watch in a state; with a FILLING trace or none. -/
def ending (chute : Option WatchState) (traced : Bool) : State :=
  let target : Target := if chute.isSome then .chute 0 none else .coil 0
  let held : Held := { channel := some 1, line := none, link := false, buffer := if traced then some 0 else none, reservation := true }
  let tr : Trace := { newTrace 12 1 chute0.trace prof 0 with tb := some 0, samples := [1300, 1500, 1300, 1290], nPull := 3, nHold := 1 }
  let s := (full.setTtb { full.ttb with slots := full.ttb.slots.set 3 (some { trial 12 target .active held with loadOrder := 3 }) })
  let s := (s.setObu { s.obu with watches := s.obu.watches.set 3 (chute.map watch) }).setTru
    { s.tru with buffers := s.tru.buffers.set 0 (if traced then some tr else none) }
  s.setChannel 1 { s.channel 1 with state := .recover, remaining := 1, p := some 8 }

/-- A channel whose profile ends at the boundary, and channels whose profile does not. -/
theorem witness_PeriodBoundaryMovesEveryChannel :
    coilRun.T + 50 = coilRun.cdu.periodStart + 50 ∧ coilRun.anyLoaded = false ∧ (∀ c : Chan, ((coilRun.channel c).boundary 50).2 = false)
      ∧ ∀ chute ∈ [none, some WatchState.ended, some .opened], ∀ traced : Bool, let s := ending chute traced;
        s.T + 50 = s.cdu.periodStart + 50 ∧ s.anyLoaded = false ∧ ((s.channel 1).boundary 50).2 = true
          ∧ (s.channel 1).owner = some { slot := 3, number := 12 }
          ∧ (∀ c : Chan, c ≠ 1 → ((s.channel c).boundary 50).2 = false)
          ∧ (∃ t, s.trial 3 = some t ∧ t.number = 12 ∧ t.ending = .open_ ∧ s.zmr.chuteRecord t.target.index = some (0, chute0)
              ∧ t.target.kind = (if chute.isSome then .chute else .coil))
          ∧ s.obu.watches[(3 : Slot)] = chute.map watch
          ∧ (∀ b : Buf, (s.tru.buffers[b]).all fun tr => decide (tr.channel = 1))
          ∧ s.tru.fillingFor 12 = (if traced then some 0 else none) := by
  refine ⟨by decide +kernel, by decide +kernel, by decide +kernel, ?_⟩
  intro chute hc traced
  simp only [List.mem_cons, List.not_mem_nil, or_false] at hc
  rcases hc with rfl | rfl | rfl <;> cases traced <;>
    exact ⟨by decide +kernel, by decide +kernel, by decide +kernel, by decide +kernel, by decide +kernel,
      ⟨_, rfl, rfl, rfl, by decide +kernel, by decide +kernel⟩, by decide +kernel, by decide +kernel, by decide +kernel⟩

/-- Those states with a trace are tied and their tables sound. -/
theorem witness_PeriodBoundary_tied :
    ∀ chute ∈ [none, some WatchState.ended, some .opened], (ending chute true).Tied ∧ (ending chute true).ttb.Sound := by
  intro chute hc
  simp only [List.mem_cons, List.not_mem_nil, or_false] at hc
  rcases hc with rfl | rfl | rfl <;>
    exact ⟨tied_of (by decide +kernel) (by decide +kernel) (by decide +kernel) (by decide +kernel) (by decide +kernel),
      ttb_of (by decide +kernel) (by decide +kernel) (by decide +kernel) (by decide +kernel)⟩

theorem witness_ProfileRunsItsLength :
    let c := Channel.reset.handOver prof { slot := 0, number := 9 }
    prof.inRange = true ∧ c.profile = some prof ∧ c.startPending = true ∧ c.state = .idle ∧ c.returnRequested = false
      ∧ 0 < prof.total ∧ prof.total = 9 := by decide +kernel

theorem witness_OutputsNeverTogether :
    let c := fun (st : ChanState) => { Channel.reset with state := st, profile := some prof, guard := 0 }
    (c .ret).profile = some prof ∧ (c .ret).state = .ret ∧ (c .gap2).state = .gap2 ∧ 1 ≤ prof.dead := by decide +kernel

theorem witness_ScanStartHoldsTheCurrents :
    coilRun.tru.scanBegun = false ∧ coilRun.T + 25 = coilRun.cdu.periodStart + 25 := by decide +kernel

theorem witness_SampleTripsTheChannel :
    let s := tracing 0 3800
    s.tru.scanBegun = true ∧ s.T + 26 = s.cdu.periodStart + BitVec.ofNat 32 (26 + s.tru.converted)
      ∧ s.tru.scanList = (0, 3800) :: [] ∧ (s.channel 0).state = .pullIn ∧ (s.channel 0).profile = some prof
      ∧ prof.trip ≤ (3800 : Adc).toNat ∧ s.anyLoaded = false ∧ (s.channel 0).owner = some { slot := 0, number := 9 }
      ∧ s.trial 0 = some (trial 9 (.coil 0) .active heldCoil) := by decide +kernel

/-- One below the trip level: with no owner, with no trace, off the grid of m, kept, and the 256th. -/
theorem witness_SampleKeptInItsTrace :
    let s := fun (n : Nat) => tracing n 3799
    let off := (s 3).setChannel 0 { (s 3).channel 0 with p := some 9 }
    let bare := (s 3).setTru { (s 3).tru with buffers := Vector.replicate 4 none }
    let free := (s 3).setChannel 0 { (s 3).channel 0 with owner := none }
    (s 3).tru.scanBegun = true ∧ (s 3).T + 26 = (s 3).cdu.periodStart + BitVec.ofNat 32 (26 + (s 3).tru.converted)
      ∧ (s 3).tru.scanList = (0, 3799) :: [] ∧ ((s 3).channel 0).profile = some prof ∧ (3799 : Adc).toNat < prof.trip
      ∧ (free.channel 0).owner = none ∧ bare.tru.fillingFor 9 = none
      ∧ ((s 3).channel 0).owner = some { slot := 0, number := 9 } ∧ ((s 3).channel 0).p = some 8
      ∧ (s 3).tru.fillingFor 9 = some 0 ∧ (off.channel 0).p = some 9 ∧ 9 % chute0.trace.m ≠ 0 ∧ 8 % chute0.trace.m = 0
      ∧ ((s 3).channel 0).state = .pullIn ∧ ((s 3).tru.buffers[(0 : Buf)]).map (fun t => t.samples.length) = some 3
      ∧ (s 255).tru.fillingFor 9 = some 0 ∧ ((s 255).tru.buffers[(0 : Buf)]).map (fun t => t.samples.length) = some 255
      ∧ (s 255).anyLoaded = false := by decide +kernel

theorem witness_AnalogReadConverts :
    let s := fun (xs : List AnalogInput) =>
      (State.reset.setTru { Tru.reset with scanBegun := true, pendingReads := xs, readsJoined := true }).setHlk
        { Hlk.reset with handler := .waiting 3 }
    (∀ xs, (s xs).tru.scanBegun = true ∧ (s xs).T + 26 = (s xs).cdu.periodStart + BitVec.ofNat 32 (26 + (s xs).tru.converted)
        ∧ (s xs).tru.scanList = [] ∧ (s xs).tru.readsJoined = true ∧ (s xs).tru.pendingReads = xs)
      ∧ (s [.general 1]).hlk.handler = .waiting 3 ∧ [AnalogInput.sense 4] ≠ [] :=
  ⟨fun _ => ⟨rfl, rfl, rfl, rfl, rfl⟩, rfl, by decide⟩

theorem witness_TraceReducesToDipAndHold :
    let tr : Trace := { newTrace 9 0 chute0.trace prof 0 with samples := [1300, 1500, 1300, 1290], nPull := 3, nHold := 1 }
    let flat : Trace := { tr with samples := [1300, 1300] , nPull := 1, nHold := 1 }
    tr.nPull + tr.nHold ≤ tr.samples.length ∧ tr.samples.length ≤ 256 ∧ tr.fields.m ≤ 8
      ∧ (1200 ≤ 1500 ∧ 1300 + tr.fields.theta ≤ 1500) ∧ tr.reduce.dip = some 825
      ∧ (flat.nPull + flat.nHold ≤ flat.samples.length ∧ flat.reduce.dip = none)
      ∧ coilRun.zmr.chuteRecord (Target.coil 0).index = some (0, chute0)
      ∧ (coilRun.setTru { coilRun.tru with results := coilRun.tru.results.set 0 (some tr.reduce) }).tru.results[(0 : Chan)]
        = some tr.reduce ∧ heldCoil.buffer = some 0 ∧ Held.nothing.buffer = none := by decide +kernel

theorem witness_WatchExpiryEndsTheWatch :
    let s := fun (st : WatchState) => watching 0 st .low
    let done := fun (st : WatchState) =>
      let t := ((s st).setTrial 0 (some (trial 9 (.chute 0 none) .active heldCoil)))
      t.setObu { t.obu with coils := t.obu.coils.set 0 (some { channel := 0, ending := .complete, tb := some 0,
                                                               periodsRun := some 9, phase := none, outcome := .pass,
                                                               buffer := none, figures := .untraced }) }
    (∀ st, (s st).obu.watches[(0 : Slot)] = some (watch st) ∧ (watch st).expiry = (s st).T + 25
        ∧ (s st).obu.coils[(0 : Slot)] = none ∧ (done st).obu.watches[(0 : Slot)] = some (watch st)
        ∧ (done st).trial 0 = some (trial 9 (.chute 0 none) .active heldCoil)
        ∧ ((done st).obu.coils[(0 : Slot)]).isSome ∧ (done st).obu.drives[(0 : Slot)] = none)
      ∧ (watch .opened).state ≠ .ended ∧ (watch .arrived).state ≠ .ended ∧ (done .opened).anyLoaded = false := by
  refine ⟨fun st => ⟨?_, rfl, ?_, ?_, ?_, ?_, ?_⟩, by decide, by decide, by decide +kernel⟩ <;> cases st <;> decide +kernel

/-- With busy seen and clear; and the outputs with an exchange, at rest, and after a take-back at offset 36, between the clocks. -/
theorem witness_CheckDeadlineOwnsOrConflicts :
    let s := fun (b : Bool) => driving { Dlk.reset with state := .checking, deadline := some 20000, busySeen := b }
    (∀ b, (s b).dlk.state = .checking ∧ (s b).dlk.deadline = some ((s b).T + 20000) ∧ (s b).dlk.busySeen = b
        ∧ (s b).dlk.owner = some { slot := 0, number := 9 } ∧ (s b).dlk.latch = some latch ∧ (s b).dlk.cur = none
        ∧ (s b).trial 0 = some (trial 9 (.drive 0 1800 200 8) .active { Held.nothing with link := true }))
      ∧ (driving { Dlk.reset with cur := exchange .step }).dlk.cur = exchange .step ∧ State.reset.dlk.clockStop = none
      ∧ ((driving { Dlk.reset with clockStop := some 36 }).dlk.cur = none
          ∧ (driving { Dlk.reset with clockStop := some 36 }).dlk.clockStop = some 36 ∧ ¬(2 ≤ 36 ∧ 36 < 34) ∧ ¬(38 ≤ 36 ∧ 36 < 70)) :=
  ⟨fun b => ⟨rfl, by cases b <;> decide +kernel, rfl, rfl, rfl, rfl, rfl⟩, rfl, rfl, rfl, rfl, by decide, by decide⟩

/-- Byte 0x31 of the frame of a step of value 0x05DC: its bit 5 is the third bit sent, HIGH at offset 4 µs, while bits 7 and 6 are
LOW; the check byte is 0xED, its most significant bit HIGH at offset 26 (R151, R152). -/
theorem test_request_frame_on_dout :
    let s := driving { Dlk.reset with cur := some { cmd := .step, value := 0x05DC, select := 2, start := 0 } }
    ([1, 2, 3, 4, 26, 29, 34].map fun t : Nat => s.doutPin (BitVec.ofNat 32 t)) = [.low, .low, .low, .high, .high, .low, .low]
      ∧ s.selectPin 2 69 = .low ∧ s.selectPin 2 70 = .high ∧ s.selectPin 3 10 = .high := by decide +kernel

/-- A good answer 0x01 0x00 0x00 with check 0xFE, a good one with NAK, one with DRIVE_FAULT, and a bad one, to each command. -/
theorem witness_ExchangeEndJudgesTheAnswer :
    let s := fun (c : DriveCmd) (n : Nat) =>
      driving { Dlk.reset with state := .owned, cur := exchange c, badQuery := n, measurement := some (newMeasurement 100 200) }
    let r := fun (c : DriveCmd) (x : Option DriveCmd) (p : List DriveCmd) =>
      driving { Dlk.reset with state := .releasing, cur := exchange c, next := x, plan := p }
    ((1 : Byte) + 0 + 0 + 0xFE).toNat = 255 ∧ ((1 : Byte) + 0 + 0 + 0).toNat ≠ 255
      ∧ (1 : Byte).getLsbD 0 = true ∧ (1 : Byte).getLsbD 1 = false
      ∧ (((0 : Byte) + 0 + 0 + 0xFF).toNat = 255 ∧ (0 : Byte).getLsbD 0 = false)
      ∧ (((2 : Byte) + 0 + 0 + 0xFD).toNat = 255 ∧ (2 : Byte).getLsbD 1 = true)
      ∧ (∀ c x p, (r c x p).dlk.cur = exchange c ∧ (r c x p).dlk.state = .releasing ∧ (r c x p).dlk.latch = some latch
          ∧ (r c x p).dlk.next = x ∧ (r c x p).dlk.plan = p)
      ∧ ∀ c n, (s c n).dlk.state = .owned ∧ (s c n).dlk.cur = exchange c ∧ (s c n).T + 80 = 0 + 80 ∧ (s c n).dlk.badQuery = n
        ∧ (s c n).dlk.owner = some { slot := 0, number := 9 } ∧ (s c n).dlk.abort = none ∧ (s c n).dlk.faultSeen = false
        ∧ (s c n).dlk.refused = false ∧ (s c n).dlk.linkError = false ∧ (s c n).dlk.latch = some latch
        ∧ (s c n).dlk.measurement = some (newMeasurement 100 200)
        ∧ (s c n).trial 0 = some (trial 9 (.drive 0 1800 200 8) .active { Held.nothing with link := true }) :=
  ⟨by decide, by decide, by decide, by decide, by decide, by decide, fun _ _ _ => ⟨rfl, rfl, rfl, rfl, rfl⟩,
    fun _ _ => ⟨rfl, rfl, rfl, rfl, rfl, rfl, rfl, rfl, rfl, rfl, rfl, rfl⟩⟩

/-- A NAK to the step sets refused and sends RELEASE at once (R156); a DRIVE_FAULT while RELEASING takes the base SETPOINT from the
slot and the plan, so that RELEASE is next (R159). -/
theorem test_refusal_and_fault_release :
    let s := driving { Dlk.reset with state := .owned, cur := exchange .step }
    let r := driving { Dlk.reset with state := .releasing, cur := exchange .query, next := some .base, plan := [.base, .release] }
    let u := (next (exec (.exchangeEnd 80 0 0 0 0xFF) s)).dlk
    let v := (next (exec (.exchangeEnd 80 3 0 0 0xFC) r)).dlk
    (u.refused = true ∧ u.state = .releasing ∧ u.cur.map Exchange.cmd = some .release ∧ u.plan = [])
      ∧ v.faultSeen = true ∧ v.cur.map Exchange.cmd = some .release ∧ v.plan = [] ∧ v.next = none := by decide +kernel

/-- Before the last window of the duration of 8, and at it: with no exchange, behind one, and behind one with a QUERY waiting. -/
theorem witness_WindowMeasuredWhileOwned :
    let s := fun (n : Nat) (c : Option Exchange) (x : Option DriveCmd) =>
      driving { Dlk.reset with state := .owned, cur := c, next := x,
                               measurement := some { newMeasurement 100 200 with windows := n } }
    (∀ n c x, (s n c x).T + 4096 = (s n c x).ltr.nextClose ∧ (s n c x).Unaimed ∧ (s n c x).dlk.state = .owned
        ∧ (s n c x).dlk.latch = some latch ∧ (s n c x).dlk.cur = c ∧ (s n c x).dlk.next = x
        ∧ (s n c x).dlk.measurement = some { newMeasurement 100 200 with windows := n })
      ∧ 6 + 1 < latch.duration ∧ latch.duration ≤ 7 + 1 ∧ exchange .query ≠ none :=
  ⟨fun _ _ _ => ⟨rfl, unaimed_reset, rfl, rfl, rfl, rfl, rfl⟩, by decide, by decide, by decide⟩

/-- The same in the working machine, with a fire entry and an EYE trial. -/
theorem witness_WindowMeasuredWhileOwned_aimed :
    full.T + 4096 = full.ltr.nextClose ∧ full.dlk.state = .owned ∧ full.dlk.latch = some latch
      ∧ full.dlk.measurement = some (newMeasurement 100 200) ∧ full.fsc ≠ [] :=
  ⟨rfl, rfl, rfl, rfl, by decide⟩

/-- The shortest and the longest payload, with arrival times. -/
theorem witness_FrameRoundTrip :
    (req 1 []).payload.length ≤ 240 ∧ (List.replicate 6 (0 : Time)).length = (req 1 []).payload.length + 6
      ∧ (req 1 (List.replicate 240 0xC3)).payload.length ≤ 240
      ∧ (List.replicate 246 (0 : Time)).length = (req 1 (List.replicate 240 0xC3)).payload.length + 6 := by decide +kernel

theorem witness_CompleteFrameJoinsTheQueue :
    let s := holding (req 1 []).bytes.dropLast
    let full := fun (n : Nat) => s.setHlk { s.hlk with queue := List.replicate 4 (req 2 []), busy := List.replicate n (1, 1) }
    (req 1 []).payload.length ≤ 240 ∧ s.hlk.held.map Prod.fst ++ [(req 1 []).bytes.getLast!] = (req 1 []).bytes
      ∧ s.hlk.held.getLast?.map Prod.snd = some 0 ∧ (s.T + 2000 - 0).toNat ≤ 2000 ∧ s.hlk.queue.length < 4
      ∧ (4 ≤ (full 7).hlk.queue.length ∧ (full 7).hlk.busy.length < 8) ∧ 8 ≤ (full 8).hlk.busy.length
      ∧ State.reset.hlk.held = [] ∧ (0x55 : Byte) ≠ 0xC3 := by decide +kernel

/-- A start byte with nothing, with a whole payload whose check is wrong, in time and late; and a payload that is a start byte. -/
theorem witness_LineErrorGapAndDiscard :
    let s := holding [0xC3, 0, 1, 7, 0]
    (∃ mid, s.hlk.held = (0xC3, 0) :: mid ∧ (∀ x ∈ mid, x.1 ≠ (0xC3 : Byte))
        ∧ mid.map Prod.fst = 0 :: 1 :: 7 :: (([] : List Byte) ++ [0]))
      ∧ s.hlk.held.getLast? = some (0, 0)
      ∧ 2000 < (s.T + 2001 - 0).toNat ∧ ¬(2000 < (s.T + 2000 - 0).toNat)
      ∧ (0 : Byte).toNat * 256 + (0 : Byte).toNat ≠ (crc16 [0, 1, 7]).toNat
      ∧ (holding [0xC3]).hlk.held = (0xC3, 0) :: [] ∧ (holding [0xC3]).hlk.held.getLast? = some (0xC3, 0)
      ∧ 240 < (241 : Byte).toNat
      ∧ ((holding [0xC3, 1, 2, 7, 0xC3, 5]).hlk.held.map Prod.fst = 0xC3 :: 1 :: 2 :: 7 :: (([0xC3] : List Byte) ++ [5])
          ∧ (5 : Byte).toNat * 256 + (0 : Byte).toNat ≠ (crc16 [1, 2, 7, 0xC3]).toNat) :=
  ⟨⟨_, rfl, by simp, rfl⟩, rfl, by decide, by decide, by decide +kernel, rfl, rfl, by decide, by decide +kernel⟩

theorem witness_TransmitterTakesInOrder :
    let n := fun (k : NoticeKind) => (sending { Hlk.reset with notices := NoticeSet.empty.put k true }).hlk.notices
    spansBytes 0 6 521 = true
      ∧ (∀ h : Hlk, h.strap = 0 → (sending h).hlk.tx = some { frame := req 0x81 [], start := 0 } ∧ (sending h).T + 521 = 521)
      ∧ (sending { Hlk.reset with resetPhase := .replySending }).hlk.resetPhase = .replySending
      ∧ (sending { Hlk.reset with busy := [(1, 2)] }).hlk.busy = (1, 2) :: []
      ∧ (sending { Hlk.reset with reply := some (req 0x84 []), resetPhase := .replyWaiting }).hlk.reply = some (req 0x84 [])
      ∧ (n .halt).halt = true ∧ ((n .track).halt = false ∧ (n .track).track = true)
      ∧ ((n .fault).track = false ∧ (n .fault).fault = true) ∧ ((n .log).fault = false ∧ (n .log).log = true)
      ∧ (sending .reset).hlk.notices = .empty :=
  ⟨by decide +kernel, fun _ _ => ⟨rfl, rfl⟩, rfl, rfl, rfl, rfl, ⟨rfl, rfl⟩, ⟨rfl, rfl⟩, ⟨rfl, rfl⟩, rfl⟩

theorem witness_WrongLengthAndUnknownKindRefused :
    (ask .reset 0x0E [1]).Serves (req 0x0E [1]) [] ∧ requestOf (.cancelTrial 0) = some (0, (req 0x0E [1]).kind, 2)
      ∧ (req 0x0E [1]).payload.length ≠ 2 ∧ (ask .reset 0x17 []).Serves (req 0x17 []) [] ∧ 0x16 < (req 0x17 []).kind.toNat
      ∧ (ask .reset 0 []).Serves (req 0 []) [] ∧ (req 0 []).kind.toNat = 0 :=
  ⟨serves _ _ _ rfl, rfl, by decide, serves _ _ _ rfl, by decide, serves _ _ _ rfl, rfl⟩

theorem witness_ReadingRequestsChangeNothing :
    (ask .reset 0x01 []).Serves (req 0x01 []) [] ∧ (ask .reset 0x0B []).Serves (req 0x0B []) []
      ∧ (ask .reset 0x10 []).Serves (req 0x10 []) [] ∧ (∀ k : Slot, (ask .reset 0x10 []).trial k = none)
      ∧ (ask armed 0x10 []).Serves (req 0x10 []) [] ∧ ((ask armed 0x10 []).trial 0).isSome
      ∧ (∀ j : Slot, j < 0 → (ask armed 0x10 []).trial j = none) :=
  ⟨serves _ _ _ rfl, serves _ _ _ rfl, serves _ _ _ rfl, no_trials, serves _ _ _ rfl, rfl, by decide +kernel⟩

theorem witness_StatusReportsAndClearsFlags :
    (ask .reset 0x02 []).Serves (req 0x02 []) [] ∧ State.reset.ltr.Sound ∧ (ask .reset 0x02 []).Reserved
      ∧ (ask (armed.setTtb { armed.ttb with run := .halted .stop }) 0x02 []).ttb.run = .halted .stop
      ∧ (ask armed 0x02 []).fsc.length < 256 :=
  ⟨serves _ _ _ rfl, by unfold Ltr.Sound; decide +kernel, by unfold State.Reserved; decide +kernel, rfl, by decide⟩

theorem witness_SubscribeReplacesSubscriptions : (ask .reset 0x03 [0xFF]).Serves (req 0x03 [0xFF]) [] := serves _ _ _ rfl

theorem witness_ResetRequestAccepted :
    (ask .reset 0x04 []).Serves (req 0x04 []) [] ∧ requestOf (.halt 0) = some (0, 0x13, 0) ∧ Instr.unknownKind 0 = .unknownKind 0
      ∧ (State.reset.setHlk { Hlk.reset with resetPhase := .due }).hlk.resetPhase ≠ .off :=
  ⟨serves _ _ _ rfl, rfl, rfl, by decide⟩

/-- N at 15 and 16, a trial that is begun, and none. -/
theorem witness_SetLoopTakesTheGeometry :
    let b := fun (n : Nat) => beBytes 2 n ++ beBytes 2 64 ++ beBytes 2 99
    (∀ n, (ask .reset 0x05 (b n)).Serves (req 0x05 (b n)) [] ∧ (b n).length = 6)
      ∧ field (b 15) 0 2 = 15 ∧ field (b 16) 0 2 = 16 ∧ field (b 16) 2 2 = 64
      ∧ (ask armed 0x05 (b 16)).Serves (req 0x05 (b 16)) []
      ∧ (∃ k t, (ask armed 0x05 (b 16)).trial k = some t ∧ t.state ≠ .loaded)
      ∧ (∀ k t, (ask .reset 0x05 (b 16)).trial k = some t → t.state = .loaded)
      ∧ (ask (ltr encS) 0x05 (b 16)).ltr.trust ≠ .unsynced ∧ (ask .reset 0x05 (b 16)).ltr.trust = .unsynced :=
  ⟨fun _ => ⟨serves _ _ _ rfl, rfl⟩, by decide +kernel, by decide +kernel, by decide +kernel, serves _ _ _ rfl,
    ⟨0, _, rfl, by decide⟩,
    (fun k t h => by
      have h0 := no_trials k
      rw [show State.reset.trial k = some t from h] at h0; cases h0), by decide, rfl⟩

/-- A base of 1,017, windows that share one chute, a targeted window that moves, and windows that just touch. -/
theorem witness_SetZoneMovesTheWindows :
    let b := fun (x y : Nat) => beBytes 2 x ++ beBytes 2 y
    (∀ x y, (ask .reset 0x06 (b x y)).Serves (req 0x06 (b x y)) [] ∧ (b x y).length = 4)
      ∧ ¬(field (b 1017 0) 0 2 ≤ 1016) ∧ (field (b 1016 1009) 0 2 = 1016 ∧ field (b 1016 1009) 2 2 = 1009)
      ∧ ¬(1016 + 8 ≤ 1009 ∨ 1009 + 8 ≤ 1016) ∧ (1016 + 8 ≤ 1008 ∨ 1008 + 8 ≤ 1016)
      ∧ (ask armed 0x06 (b 1 9)).Serves (req 0x06 (b 1 9)) []
      ∧ (∃ k t c, (ask armed 0x06 (b 1 9)).trial k = some t ∧ t.target.chute? = some c ∧ 0 ≤ c ∧ c ≤ 0 + 7)
      ∧ (ask armed 0x06 (b 1 9)).zmr.baseA = 0
      ∧ ¬∃ k t c, (ask .reset 0x06 (b 1016 1008)).trial k = some t ∧ t.target.chute? = some c ∧ 0 ≤ c ∧ c ≤ 0 + 7 :=
  ⟨fun _ _ => ⟨serves _ _ _ rfl, rfl⟩, by decide +kernel, by decide +kernel, by decide, by decide, serves _ _ _ rfl,
    ⟨0, _, 0, rfl, rfl, by decide⟩, rfl, no_target⟩

theorem witness_SetChuteStoresTheRecord :
    let far := { chute0 with chute := 500 }
    let long := { chute0 with S := 65536 }
    let b := fun (r : ChuteRecord) => beBytes 2 r.chute ++ r.bytes
    (∀ r, (ask .reset 0x07 (b r)).Serves (req 0x07 (b r)) []) ∧ State.reset.zmr.channelOf far.chute = none
      ∧ (¬(long.S < State.reset.ltr.N * State.reset.ltr.P) ∧ long.S < 2 ^ 24)
      ∧ State.reset.zmr.channelOf chute0.chute = some 0 ∧ chute0.chute ≤ 1023
      ∧ (chute0.S < 65536 ∧ chute0.wOpen ≤ chute0.wClose ∧ chute0.wClose + chute0.wLate ≤ 16777215)
      ∧ chute0.tau < 65536 ∧ chute0.profile.inRange = true ∧ chute0.trace.inRange = true
      ∧ (ask armed 0x07 (b chute0)).Serves (req 0x07 (b chute0)) []
      ∧ (∃ k t, (ask armed 0x07 (b chute0)).trial k = some t ∧ t.state ≠ .loaded ∧ t.target.chute? = some chute0.chute)
      ∧ (¬∃ k t, (ask .reset 0x07 (b chute0)).trial k = some t ∧ t.state ≠ .loaded ∧ t.target.chute? = some chute0.chute)
      ∧ (∀ x : Byte, (ask .reset 0x07 (List.replicate 50 x)).Serves (req 0x07 (List.replicate 50 x)) [])
      ∧ (48 ≤ field (List.replicate 50 48#8) 7 1 ∧ field (List.replicate 50 48#8) 7 1 ≠ 255)
      ∧ 2 ≤ field (List.replicate 50 2#8) 34 1
      ∧ ¬(1 ≤ { prof with dead := 0 }.dead) ∧ { prof with pullDuty := 257 }.pullDuty < 65536 ∧ ¬(257 ≤ 256)
      ∧ ¬(3 = 1 ∨ 3 = 2 ∨ 3 = 4 ∨ 3 = 8) :=
  ⟨fun _ => serves _ _ _ rfl, by decide +kernel, by decide +kernel, by decide +kernel, by decide, by decide, by decide,
    by decide +kernel, by decide +kernel, serves _ _ _ rfl, ⟨0, _, rfl, by decide, rfl⟩, none_begun, fun _ => serves _ _ _ rfl,
    by decide +kernel, by decide +kernel, by decide, by decide, by decide, by decide⟩

theorem witness_SetEyeAndSetDriveStoreTheirRecords :
    let e : EyeRecord := { line := 20, X := 500, tol := 40, expected := some 900, lenTol := 60, passes := 4 }
    let d : DriveRecord := latch.record
    (∀ r k, (ask .reset 0x08 (EyeRecord.setEyePayload r k)).Serves (req 0x08 (r.setEyePayload k)) [])
      ∧ (∀ r k, (ask .reset 0x09 (DriveRecord.setDrivePayload r k)).Serves (req 0x09 (r.setDrivePayload k)) [])
      ∧ (e.X < 64 * 1024 ∧ e.tol ≤ 1024 / 2 ∧ 1 ≤ e.passes ∧ 900 ≤ 1024 ∧ e.lenTol ≤ 1024 ∧ 1 ≤ 900)
      ∧ ¬({ e with passes := 0 }.passes ≥ 1) ∧ (d.base ≤ d.maximum ∧ 1 ≤ d.checkMs ∧ 1 ≤ d.riseLimit ∧ d.riseLimit ≤ 1000)
      ∧ ¬(1 ≤ { d with riseLimit := 0 }.riseLimit)
      ∧ (∃ j t, (observing (eyeObs 0 [] none) .low).trial j = some t ∧ t.state ≠ .loaded ∧ t.target = .eye 4)
      ∧ (∃ j t, (driving .reset).trial j = some t ∧ t.state ≠ .loaded ∧ t.target = .drive 0 1800 200 8)
      ∧ (¬∃ j t, State.reset.trial j = some t ∧ t.state ≠ .loaded ∧ t.target = .eye 4)
      ∧ (∀ k p, (ask .reset k p).Serves (req k p) [])
      ∧ (16 ≤ field (List.replicate 12 16#8) 0 1 ∧ 48 ≤ field (List.replicate 12 48#8) 1 1)
      ∧ (8 ≤ field (List.replicate 13 8#8) 0 1 ∧ 8 ≤ field (List.replicate 13 8#8) 1 1) :=
  ⟨fun _ _ => serves _ _ _ rfl, fun _ _ => serves _ _ _ rfl, by decide, by decide, by decide, by decide,
    ⟨0, _, rfl, by decide, rfl⟩, ⟨0, _, rfl, by decide, rfl⟩, none_begun, fun _ _ => serves _ _ _ rfl, by decide +kernel,
    by decide +kernel⟩

/-- Claimed by another line; busy as the eye line of a trial; accepted as a general output, as HOME, and as STOP on an active level. -/
theorem witness_SetLineConfiguresTheLine :
    let cfg := fun (fn : LineFn) => { LineConfig.reset with fn := fn }
    let home := State.reset.setLmx { Lmx.reset with homeHolder := some 3 }
    let busy := (line .reset 20 .eye .low).setTtb { Ttb.reset with lineHolder := Ttb.reset.lineHolder.set 20 (some 0) }
    let high := line .reset 40 .unused .high
    (∀ b, (ask home 0x0A b).Serves (req 0x0A b) [] ∧ (ask busy 0x0A b).Serves (req 0x0A b) []
        ∧ (ask high 0x0A b).Serves (req 0x0A b) [])
      ∧ ((cfg .home).fn.single = true ∧ home.lmx.holderOf .home = some 3 ∧ (3 : LineNo) ≠ 4 ∧ (cfg .home).g < 256)
      ∧ ((busy.line 20).cfg.fn = .eye ∧ busy.ttb.lineHolder[(20 : LineNo)] ≠ none ∧ (cfg .general).fn ≠ .eye)
      ∧ (State.reset.lmx.holderOf .home = none ∧ (State.reset.line 5).cfg.fn ≠ .eye ∧ State.reset.dlk.state.engaged = false)
      ∧ ((high.line 40).accepted = (cfg .stop).active ∧ high.lmx.stopHolds = false ∧ (high.line 40).cfg.fn ≠ .eye)
      ∧ (¬∃ k t, State.reset.trial k = some t ∧ t.state ≠ .loaded ∧ (t.target.kind = .chute ∨ t.target.kind = .eye))
      ∧ (48 ≤ field [48, 0, 0, 0, 0, 0, 0, 0] 0 1 ∧ 2 ≤ field [0, 2, 2, 2, 2, 2, 0, 0] 5 1 ∧ 7 ≤ field [0, 0, 0, 0, 0, 0, 0, 7] 7 1) :=
  ⟨fun _ => ⟨serves _ _ _ rfl, serves _ _ _ rfl, serves _ _ _ rfl⟩, by decide +kernel, by decide +kernel, by decide +kernel,
    by decide +kernel, none_begun, by decide +kernel⟩

/-- No input, five, a bad one after the first, and four of both kinds. -/
theorem witness_ReadAnalogWaits :
    (∀ b, (ask .reset 0x0C b).Serves (req 0x0C b) []) ∧ (0 : Byte).toNat = 0 ∧ 4 < (5 : Byte).toNat
      ∧ (∃ x ∈ (([3, 20, 0, 0] : List Byte).take (2 : Byte).toNat).map BitVec.toNat, 20 ≤ x)
      ∧ ([.general 3, .sense 15, .sense 0, .general 0] : List AnalogInput).map
          (fun x => match x with | .sense i => i.val | .general j => 16 + j.val)
        = (([19, 15, 0, 16] : List Byte).take (4 : Byte).toNat).map BitVec.toNat :=
  ⟨fun _ => serves _ _ _ rfl, by decide, by decide, by decide, by decide⟩

/-- A kind out of range, a full table, a number in use, a chute out of zone, no record, no trace enable, HALTED, and an arming. -/
theorem witness_LoadTrialTakesASlot :
    let b := fun (n kind c : Byte) => [0, n, kind, 0, c, 0, 0, 0, 0, 0, 0, 0, 0]
    let r := recs .reset
    let packed := r.setTtb { r.ttb with slots := Vector.replicate 48 (some (trial 1 (.coil 0) .loaded .nothing)) }
    let bare := r.setZmr { r.zmr with chutes := r.zmr.chutes.set 0 (some { chute0 with traceOn := false }) }
    let halted := r.setTtb { r.ttb with run := .halted .halt }
    (∀ s n k c, s.hlk = Hlk.reset → (ask s 0x0D (b n k c)).Serves (req 0x0D (b n k c)) [] ∧ (b n k c).length = 13)
      ∧ targetOf (b 9 4 0) 64 = none ∧ targetOf (b 9 1 0) 64 = some (.coil 0) ∧ (∀ k, packed.trial k ≠ none)
      ∧ (r.trial 0 = none ∧ ∀ j : Slot, j < 0 → r.trial j ≠ none)
      ∧ ((coilRun.trial 0).map Trial.number = some 9 ∧ coilRun.trial 1 = none ∧ ∀ j : Slot, j < 1 → coilRun.trial j ≠ none)
      ∧ targetOf (b 9 1 99) 64 = some (.coil 99) ∧ r.zmr.channelOf 99 = none
      ∧ (r.zmr.channelOf 5 ≠ none ∧ r.zmr.chuteRecord 5 = none)
      ∧ bare.zmr.chuteRecord 0 = some (0, { chute0 with traceOn := false })
      ∧ (r.zmr.chuteRecord 0 = some (0, chute0) ∧ r.loadRefusal 9 (.coil 0) = none)
      ∧ halted.ttb.run = .halted .halt
      ∧ (r.ttb.run = .running ∧ r.anyLoaded = false ∧ (r.channel 0).state ≠ .fault ∧ r.ttb.channelHolder[(0 : Chan)] = none
          ∧ r.vlg.records.length + r.vlg.reserved < 128 ∧ r.tru.buffers[(0 : Buf)] = none)
      ∧ (State.reset.zmr.eyes[(4 : Fin 16)] = none ∧ State.reset.zmr.drives[(0 : Fin 8)] = none)
      ∧ (chute0.S < 64 * 1024 ∧ chute0.eyeLine = some 12 ∧ (r.line 12).cfg.fn ≠ .eye ∧ (r.line 20).cfg.fn ≠ .eye
          ∧ r.lmx.requestHolder = none)
      ∧ (let w := full.setTtb Ttb.reset
          let w := w.setDlk Dlk.reset
          w.loadRefusal 9 (.chute 0 none) = none ∧ w.loadRefusal 9 (.eye 4) = none
            ∧ w.loadRefusal 9 (.drive 0 1800 200 8) = none ∧ w.ltr.trust = .synced ∧ w.anyLoaded = false
            ∧ w.ttb.lineHolder[(12 : LineNo)] = none ∧ w.ttb.lineHolder[(20 : LineNo)] = none ∧ w.dlk.state = .idle
            ∧ w.ltr.H < w.ltr.N * w.ltr.P ∧ w.vlg.records.length + w.vlg.reserved < 128
            ∧ targetOf ([0, 9, 0, 0, 0, 255, 255] ++ [0, 0, 0, 0, 0, 0]) 64 = some (.chute 0 none)
            ∧ targetOf (b 9 2 4) 64 = some (.eye 4)
            ∧ targetOf [0, 9, 3, 0, 0, 0, 0, 7, 8, 0, 200, 0, 8] 64 = some (.drive 0 1800 200 8)) := by
  refine ⟨fun s n k c h => ⟨serves _ _ _ h, rfl⟩, ?_⟩
  decide +kernel

/-- A load that finds its channel held is held for RESOURCE, the first condition of R61 that applies. -/
theorem witness_LoadTrialTakesASlot_held :
    let r := recs .reset
    let taken := r.setTtb { r.ttb with channelHolder := r.ttb.channelHolder.set 0 (some 3) }
    let fresh := newTrial 9 (.coil 0) 0
    taken.loadRefusal 9 (.coil 0) = none ∧ taken.anyLoaded = false ∧ taken.trial 0 = none ∧ taken.HeldFor [] fresh .resource := by
  refine ⟨by decide +kernel, by decide +kernel, by decide +kernel, ?_⟩
  have h := holdReason_spec (s := (recs .reset).setTtb { (recs .reset).ttb with
    channelHolder := (recs .reset).ttb.channelHolder.set 0 (some 3) }) (t := newTrial 9 (.coil 0) 0) (earlier := []) (ahead := []) rfl
  rwa [show State.holdReason _ _ _ = some HoldReason.resource by decide +kernel] at h

/-- Two LOADED trials that need one channel, the older in the higher slot: it arms, and the other is held for RESOURCE (R60). -/
theorem test_scan_takes_load_order :
    let r := recs .reset
    let a := newTrial 1 (.coil 0) 0
    let b := newTrial 2 (.coil 0) 1
    let s := ((r.setTtb { r.ttb with loadCounter := 2 }).setTrial 5 (some a)).setTrial 2 (some b)
    (s.scan.trial 5).map Trial.state = some .active ∧ (s.scan.trial 2).map Trial.hold = some (some .resource) := by decide +kernel

/-- No such number; a LOADED, an ARMED, an ACTIVE COIL, an ACTIVE EYE, and an already ending trial, each alone in slot 0. -/
theorem witness_CancelTrialEndsTheTrial :
    let one := fun (t : Trial) => State.reset.setTrial 0 (some t)
    (∀ s, s.hlk = Hlk.reset → (ask s 0x0E [0, 9]).Serves (req 0x0E [0, 9]) []) ∧ field [0, 9] 0 2 = 9
      ∧ (∀ k, State.reset.trial k = none)
      ∧ (∀ (j : Slot), j ≠ 0 → ∀ t, (one t).trial j = none) ∧ (∀ t, (one t).trial 0 = some t)
      ∧ (trial 9 (.coil 0) .loaded .nothing).state = .loaded
      ∧ ((armed.trial 0).map Trial.state = some .armed ∧ (armed.trial 0).map Trial.ending = some .open_ ∧ armed.anyLoaded = false)
      ∧ (coilRun.trial 0 = some (trial 9 (.coil 0) .active heldCoil) ∧ (coilRun.channel 0).state = .pullIn
          ∧ (coilRun.channel 0).startPending = false ∧ coilRun.obu.watches[(0 : Slot)] = none
          ∧ coilRun.obu.coils[(0 : Slot)] = none ∧ coilRun.tru.fillingFor 9 = none)
      ∧ ((observing (eyeObs 0 [] none) .low).obu.eyes[(0 : Slot)] = some (eyeObs 0 [] none)
          ∧ ((observing (eyeObs 0 [] none) .low).trial 0).map Trial.ending = some .open_)
      ∧ { trial 9 (.coil 0) .active heldCoil with ending := .cancelled }.ending ≠ .open_
      ∧ (coilRun.anyLoaded = false ∧ (coilRun.channel 0).state.running = true ∧ heldCoil.channel = some 0)
      ∧ ((tracing 4 500).anyLoaded = false ∧ (tracing 4 500).tru.fillingFor 9 = some 0)
      ∧ (let pending := coilRun.setChannel 0 (Channel.reset.handOver prof { slot := 0, number := 9 });
          (pending.channel 0).startPending = true ∧ (pending.channel 0).owner = some { slot := 0, number := 9 }
            ∧ pending.anyLoaded = false)
      ∧ (let chute := (coilRun.setTrial 0 (some (trial 9 (.chute 0 none) .active heldCoil))).setObu { Obu.reset with
            watches := Obu.reset.watches.set 0 (some (watch .arrived)),
            coils := Obu.reset.coils.set 0 (some { channel := 0, ending := .complete, tb := some 0, periodsRun := some 9,
                                                   phase := none, outcome := .pass, buffer := none, figures := .untraced }) };
          chute.anyLoaded = false ∧ chute.obu.watches[(0 : Slot)] ≠ none ∧ (chute.obu.coils[(0 : Slot)]).isSome
            ∧ (chute.channel 0).startPending = false)
      ∧ ∀ st, (driving { Dlk.reset with state := st }).dlk.state = st
          ∧ (driving { Dlk.reset with state := st }).dlk.owner = some { slot := 0, number := 9 } := by
  refine ⟨fun s h => serves _ _ _ h, by decide +kernel, no_trials, fun j hj t => ?_, fun t => rfl, by decide +kernel,
    by decide +kernel, by decide +kernel, by decide +kernel, by decide +kernel, by decide +kernel, by decide +kernel,
    by decide +kernel, by decide +kernel, fun _ => ⟨rfl, rfl⟩⟩
  have h : (Ttb.reset.slots.set 0 (some t))[j] = Ttb.reset.slots[j] := by
    simp only [Fin.getElem_fin]
    exact Vector.getElem_set_ne _ _ (fun h => hj (Fin.ext h.symm))
  exact h.trans (no_trials j)

theorem witness_CancelAllCountsEveryTrial :
    (ask armed 0x0F []).Serves (req 0x0F []) [] ∧ (ask full 0x0F []).Serves (req 0x0F []) [] ∧ (ask full 0x0F []).Tied
      ∧ (ask full 0x0F []).ttb.Sound :=
  ⟨serves _ _ _ rfl, serves _ _ _ rfl, full_tied.setHlk _, full_ttb⟩

/-- A COIL verdict of trial 258 on chute 3 laid out by hand from R193: 16 bytes and the COIL part of 10. -/
theorem test_verdict_bytes :
    let r : Verdict := { serial := 7, number := 258, kind := .coil, outcome := .holdLow, reason := none,
                         flags := ⟨false, false, true, false, true⟩, target := 3, tArm := 0x01020304, fire := none, item := none,
                         coil := some ⟨.holdLow, some 2, none, 0x0ABC, some 0x0123⟩, sensor := none, drive := none }
    r.bytes = [26, 0, 7, 1, 2, 1, 10, 0, 20, 0, 3, 1, 2, 3, 4, 4, 10, 2, 2, 0, 0, 0, 0x0A, 0xBC, 0x01, 0x23] := by decide +kernel

theorem witness_ReadLogRemovesFromTheHead :
    (∀ n, (ask .reset 0x11 [n]).Serves (req 0x11 [n]) []) ∧ (0 : Byte).toNat = 0 ∧ 8 < (9 : Byte).toNat ∧ 1 ≤ (1 : Byte).toNat
      ∧ (8 : Byte).toNat ≤ 8 ∧ (ask .reset 0x11 [8]).anyLoaded = false :=
  ⟨fun _ => serves _ _ _ rfl, by decide +kernel⟩

theorem witness_ReadTraceReturnsSamples :
    let s := tracing 4 500
    (∀ s b, s.hlk = Hlk.reset → (ask s 0x12 b).Serves (req 0x12 b) []) ∧ ([0, 9, 0, 255, 100] : List Byte).length = 5
      ∧ (field [0, 9, 0, 255, 100] 2 2 ≤ 255 ∧ field [0, 9, 0, 255, 100] 4 1 ≤ 100) ∧ ¬(field [0, 9, 1, 0, 100] 2 2 ≤ 255)
      ∧ (∀ b : Buf, State.reset.tru.buffers[b] = none)
      ∧ (s.tru.buffers[(0 : Buf)]).map Trace.number = some 9 ∧ (∀ c : Buf, c ≠ 0 → s.tru.buffers[c] = none) := by
  refine ⟨fun s b h => serves _ _ _ h, ?_⟩
  decide +kernel

theorem witness_ResumeRuns :
    let stop := (line .reset 40 .stop .high).setLmx { (line .reset 40 .stop .high).lmx with stopHolder := some 40 }
    (∀ s, s.hlk = Hlk.reset → (ask s 0x14 []).Serves (req 0x14 []) [])
      ∧ (stop.lmx.stopHolder = some 40 ∧ (stop.line 40).accepted = (stop.line 40).cfg.active)
      ∧ (State.reset.lmx.stopHolder = none ∧ State.reset.ttb.run = .running ∧ State.reset.anyLoaded = false)
      ∧ (State.reset.setTtb { Ttb.reset with run := .halted .stop }).ttb.run = .halted .stop :=
  ⟨fun _ h => serves _ _ _ h, by decide +kernel, by decide +kernel, rfl⟩

theorem witness_ClearChannelAndLinkRestartLeaveFault :
    let s := coilRun.setChannel 15 { Channel.reset with state := .fault,
                                                        fault := some { phase := .hold, p := 7, value := 3900, t := 1 } }
    (∀ s k b, s.hlk = Hlk.reset → (ask s k b).Serves (req k b) []) ∧ 16 ≤ (16 : Byte).toNat
      ∧ (15 : Byte).toNat = (15 : Chan).val ∧ (coilRun.channel 15).state ≠ .fault
      ∧ ((s.channel 15).state = .fault ∧ (s.channel 15).fault = some { phase := .hold, p := 7, value := 3900, t := 1 })
      ∧ s.anyLoaded = false ∧ (∀ st, (driving { Dlk.reset with state := st }).dlk.state = st)
      ∧ (driving { Dlk.reset with state := .fault }).anyLoaded = false :=
  ⟨fun _ _ _ h => serves _ _ _ h, by decide, by decide, by decide +kernel, by decide +kernel, by decide +kernel,
    fun _ => rfl, by decide +kernel⟩

theorem witness_InvariantsHoldAtReset :
    ∃ u, exec (.powerReset .low .low) .reset = .next u := ⟨_, rfl⟩

/-- The states of the step invariants: a working machine whose next command is a forward count that fires its entry, and a halted
one. -/
theorem witness_step_invariants :
    let s := { full with pending := [.forwardCount 0] }
    let h := { ltr enc with ttb := { Ttb.reset with run := .halted .stop }, pending := [.forwardCount 0] }
    (s.ltr.Sound ∧ s.lmx.Sound ∧ s.zmr.Sound ∧ s.ttb.Sound ∧ s.vlg.Serial ∧ s.Reserved ∧ s.Halted ∧ s.Requesting ∧ s.hlk.Bounded
        ∧ s.Tied ∧ s.Placed ∧ ∃ t, step s = .next t ∧ t.fsc = [])
      ∧ (h.Halted ∧ h.ttb.run = .halted .stop ∧ ∃ t, step h = .next t ∧ t.ttb.run = .halted .stop) := by
  have ht : { full with pending := [.forwardCount 0] }.Tied := full_tied.of_blocks rfl rfl rfl rfl rfl
  refine ⟨⟨full_placed.1, full_lmx, full_zmr, full_ttb, full_serial, ?_, ?_, ?_, ?_, ht,
    ⟨full_placed.1, full_ttb, ht, full_placed.2.2.2⟩, ⟨_, rfl, ?_⟩⟩, ?_, rfl, ⟨_, rfl, ?_⟩⟩
  · unfold State.Reserved; decide +kernel
  · unfold State.Halted; decide +kernel
  · unfold State.Requesting; decide +kernel
  · unfold Hlk.Bounded; decide +kernel
  · decide +kernel
  · unfold State.Halted; decide +kernel
  · decide +kernel

end Sys2Proof.Tests
end

section
/-! The loop tracker: its counters stay in range at every step (R1, R2, R5, R7 to R9, R12, R13). -/

namespace Sys2Proof.Machine

/-- The signed fold of a count below M lies in [−M/2, M/2). -/
theorem signedFold_range {c m : Nat} (h : c < m) :
    -(m : Int) ≤ 2 * signedFold c m ∧ 2 * signedFold c m < (m : Int) := by
  unfold signedFold; split <;> constructor <;> omega

theorem zero_fold_range {m : Nat} (h : 0 < m) : -(m : Int) ≤ 2 * (0 : Int) ∧ 2 * (0 : Int) < (m : Int) := by omega

/-- The next multiple of 4,096 after T is one, also where T wraps. -/
theorem nextWindow_multiple (t : Time) : (nextWindow t).toNat % 4096 = 0 := by
  rw [nextWindow, BitVec.toNat_ofNat]; omega

variable {l : Ltr}

theorem Ltr.Sound.L_pos (h : l.Sound) : 0 < l.L := by
  obtain ⟨⟨hN, -⟩, ⟨hP, -⟩, -⟩ := h
  exact Nat.mul_pos (by omega) (by omega)

theorem Ltr.Sound.forward (h : l.Sound) : l.forward.Sound := by
  have hL := h.L_pos
  obtain ⟨hN, hP, hT, -, hR, hV, hC, hc⟩ := h
  exact ⟨hN, hP, hT, Nat.mod_lt _ hL, Nat.le_trans (Nat.sub_le _ _) hR, hV, hC, hc⟩

theorem Ltr.Sound.backward (h : l.Sound) : l.backward.Sound := by
  have hL := h.L_pos
  obtain ⟨hN, hP, hT, -, -, hV, hC, hc⟩ := h
  exact ⟨hN, hP, hT, Nat.mod_lt _ hL, Nat.min_le_left _ _, hV, hC, hc⟩

theorem Ltr.Sound.closeWindow (h : l.Sound) : l.closeWindow.Sound := by
  obtain ⟨hN, hP, hT, hH, hR, -, hC, hc⟩ := h
  refine ⟨hN, hP, hT, hH, hR, ?_, ?_, hc⟩
  · change (if 0 < l.n then min 65535 l.n.toNat else 0) ≤ 65535
    split <;> omega
  · change (l.nextClose + 4096).toNat % 4096 = 0
    rw [BitVec.toNat_add, show (4096 : Time).toNat = 4096 from rfl]; omega

theorem Ltr.Sound.sync (h : l.Sound) : l.sync.Sound := by
  have hL : 0 < l.N * l.P := h.L_pos
  obtain ⟨hN, hP, hT, -, -, hV, hC, -⟩ := h
  exact ⟨hN, hP, hT, hL, Nat.zero_le _, hV, hC, zero_fold_range hL⟩

theorem Ltr.Sound.correct (h : l.Sound) : l.correct.Sound := by
  have hL := h.L_pos
  obtain ⟨hN, hP, hT, hH, hR, hV, hC, -⟩ := h
  exact ⟨hN, hP, hT, hL, hR, hV, hC, signedFold_range hH⟩

theorem Ltr.Sound.missHome (h : l.Sound) : l.missHome.Sound := by
  obtain ⟨hN, hP, hT, hH, hR, hV, hC, -⟩ := h
  exact ⟨hN, hP, hT, hH, hR, hV, hC, signedFold_range hH⟩

theorem Ltr.Sound.setLoop (h : l.Sound) {n p : Nat} (ht : Nat) (hn : 16 ≤ n ∧ n ≤ 1024) (hp : 64 ≤ p ∧ p ≤ 8192) :
    (l.setLoop n p ht).Sound := by
  obtain ⟨-, -, -, -, -, hV, hC, -⟩ := h
  have hL : 0 < n * p := Nat.mul_pos (by omega) (by omega)
  exact ⟨hn, hp, Nat.min_le_right _ _, hL, Nat.zero_le _, hV, hC, zero_fold_range hL⟩

/-- Every move of the tracker keeps it sound. -/
theorem LtrMove.sound {x : Ltr} (m : LtrMove l x) (h : l.Sound) : x.Sound := by
  cases m with
  | forward => exact h.forward
  | backward => exact h.backward
  | illegal => exact h
  | firstSample a b => exact h
  | closeWindow => exact h.closeWindow
  | sync => exact h.sync
  | correct => exact h.correct
  | missHome => exact h.missHome
  | lose => exact h
  | unsync => exact h
  | setLoop n p ht hn hp => exact h.setLoop ht hn hp

theorem Ltr.reset_sound {t : Time} (h : t.toNat % 4096 = 0) : Ltr.Sound { Ltr.reset with nextClose := t } :=
  have hL : 0 < 64 * 1024 := Nat.mul_pos (by omega) (by omega)
  ⟨⟨by simp [Ltr.reset], by simp [Ltr.reset]⟩, ⟨by simp [Ltr.reset], by simp [Ltr.reset]⟩, by simp [Ltr.reset], hL,
    Nat.zero_le _, Nat.zero_le _, h, zero_fold_range hL⟩

/-- Follow-on effects never reach the tracker, and every first effect of an event is a move that keeps it sound. -/
theorem ltr_sound_stable : Stable fun s => s.ltr.Sound where
  effects _ _ e h := State.ltr_of_kept e.kept_eq ▸ h
  time _ _ h := h
  power _ _ _ := Ltr.reset_sound (t := 4096) rfl
  soft s _ := Ltr.reset_sound (nextWindow_multiple s.T)
  hlk _ _ _ h := h
  ltr _ _ m h := m.sound h
  lmx _ _ _ h := h
  zmr _ _ _ h := h
  tru _ _ h := h
  halt s c h := by
    have e := State.ltr_of_kept (s.enterHalted_kept c)
    simpa [e] using h
  stop _ _ _ h := h
  resume _ h := h
  boundary _ h := h
  clear _ _ h := h
  load _ _ _ _ _ _ h := h
  log _ _ h := h

/-- Every stable invariant is kept by every step: the front command runs, or the block idles. -/
theorem Stable.keep_step {I : State → Prop} (i : Stable I) (hp : ∀ (s : State) q, I s → I { s with pending := q })
    {s t : State} (hs : I s) (h : step s = .next t) : I t := by
  unfold step at h
  split at h
  · injection h with h; exact h ▸ hs
  · exact i.keep_exec _ (hp s _ hs) h

/-- Settles O54: soundness of the tracker is a stable invariant. -/
theorem trackerStaysSound : Obligations.TrackerStaysSound :=
  fun _ _ hs h => ltr_sound_stable.keep_step (fun _ _ h => h) hs h

end Sys2Proof.Machine
end

section
/-! What the follow-on effects of an event leave alone, trial by trial: a scan, a fire and the end of one trial spare every
other trial that is ARMED or ACTIVE. -/

namespace Sys2Proof.Machine

/-! ## Events -/

/-- An event that is due has its effect, and then the transmitter its turn. -/
theorem timed_due {due : State → Bool} {effect : State → State} {dt : Time} {s : State} (h : due (s.after dt) = true) :
    timed due effect dt s = .next (effect (s.after dt)).kick := by
  simp [timed, h]

/-! ## Load order -/

theorem Ttb.mem_oldestFirst (b : Ttb) (k : Slot) : k ∈ b.oldestFirst ↔ b.slots[k] ≠ none := by
  have hm : k ∈ allSlots := by revert k; decide
  rw [Ttb.oldestFirst, (sortOldest_perm _ _).mem_iff, List.mem_filter, Option.isSome_iff_ne_none]
  exact and_iff_right hm

theorem Ttb.oldestFirst_nodup (b : Ttb) : b.oldestFirst.Nodup :=
  (sortOldest_perm _ _).nodup_iff.2 (List.Pairwise.filter _ (by decide : allSlots.Nodup))

/-! ## Observations -/

variable {s t u : State}

/-- No trial of slot `k` is still to arm. -/
def State.Settled (s : State) (k : Slot) : Prop := ∀ x, s.trial k = some x → x.begun = true

/-- From `s` to `t`, a trial of slot `k` that has begun stays as it is, with its eye observation. -/
def State.Spares (s t : State) (k : Slot) : Prop :=
  s.Settled k → t.trial k = s.trial k ∧ t.obu.eyes[k] = s.obu.eyes[k]

theorem State.Spares.refl (s : State) (k : Slot) : s.Spares s k := fun _ => ⟨rfl, rfl⟩

theorem State.Spares.of_eq {k : Slot} (h1 : t.trial k = s.trial k) (h2 : t.obu.eyes[k] = s.obu.eyes[k]) : s.Spares t k :=
  fun _ => ⟨h1, h2⟩

theorem State.Spares.settled {k : Slot} (h : s.Spares t k) (hk : s.Settled k) : t.Settled k := by
  intro x hx; exact hk x ((h hk).1 ▸ hx)

theorem State.Spares.trans {k : Slot} (h : s.Spares t k) (g : t.Spares u k) : s.Spares u k := fun hk =>
  have ⟨h1, h2⟩ := h hk
  have ⟨g1, g2⟩ := g (h.settled hk)
  ⟨g1.trans h1, g2.trans h2⟩

theorem State.settled_of_some {k : Slot} {x : Trial} (h : s.trial k = some x) (hx : x.begun = true) : s.Settled k := by
  intro y hy; rw [h] at hy; cases hy; exact hx

theorem State.settled_of_none {k : Slot} (h : s.trial k = none) : s.Settled k := by
  intro y hy; rw [h] at hy; cases hy

/-- Reading one slot's item back after a slot's item is set. -/
theorem slotItem_set {α : Type} (v : Vector α 48) (k : Slot) (x : α) (j : Slot) :
    (v.set k x)[j] = if k = j then x else v[j] := by
  simp only [Fin.getElem_fin, Vector.getElem_set, Fin.ext_iff]

/-! ## Scans -/

/-- What a scan leaves as it is: the log's records and serials, the host link, and every trial but the LOADED ones. -/
structure State.Scanned (s t : State) : Prop where
  records : t.vlg.records = s.vlg.records
  serial : t.vlg.nextSerial = s.vlg.nextSerial
  hlk : t.hlk = s.hlk
  spares : ∀ k, s.Spares t k

theorem State.Scanned.refl (s : State) : s.Scanned s := ⟨rfl, rfl, rfl, .refl s⟩

theorem State.Scanned.trans (h : s.Scanned t) (g : t.Scanned u) : s.Scanned u :=
  ⟨g.records.trans h.records, g.serial.trans h.serial, g.hlk.trans h.hlk, fun k => (h.spares k).trans (g.spares k)⟩

theorem State.setTru_scanned (x : Tru) : s.Scanned (s.setTru x) := ⟨rfl, rfl, rfl, .refl s⟩

theorem State.choose_scanned : s.Scanned s.choose := ⟨rfl, rfl, rfl, .refl s⟩

/-- The hold reason of a LOADED trial is its own affair. -/
theorem State.setTrial_scanned {k : Slot} {x y : Trial} (h : s.trial k = some x) (hx : x.begun = false) :
    s.Scanned (s.setTrial k (some y)) := by
  refine ⟨rfl, rfl, rfl, fun j hj => ⟨?_, rfl⟩⟩
  rw [State.setTrial_trial, if_neg]
  rintro rfl
  simp [hj x h] at hx

theorem State.grantTrace_eq (t : Trial) (b : Option Buf) : s.grantTrace t b = s.setTru (s.grantTrace t b).tru := by
  unfold State.grantTrace; split
  · split <;> rfl
  · split <;> rfl
  · rfl

/-- Taking its resources changes the table, the log's count of reservations and the traces. -/
theorem State.takeResources_eq (s : State) (k : Slot) (x : Trial) (n : Needs) :
    ∃ b u, s.takeResources k x n = ((s.setTtb b).setVlg s.vlg.reserve).setTru u :=
  ⟨_, _, State.grantTrace_eq _ _⟩

theorem State.takeResources_scanned {k : Slot} {x : Trial} (n : Needs) (h : s.trial k = some x) (hx : x.begun = false) :
    s.Scanned (s.takeResources k x n) := by
  have hs := takeResources_slots (s := s) k x n
  obtain ⟨b, u, e⟩ := s.takeResources_eq k x n
  rw [e] at hs ⊢
  refine ⟨rfl, rfl, rfl, fun j hj => ⟨?_, rfl⟩⟩
  unfold State.trial
  rw [hs, slotItem_set, if_neg]
  rintro rfl
  simp [hj x h] at hx

/-- The work that arming starts reaches no record of another slot, and no verdict. -/
theorem State.startWork_frame (k : Slot) (x : Trial) :
    (s.startWork k x).vlg = s.vlg ∧ (s.startWork k x).hlk = s.hlk
      ∧ ∀ j, j ≠ k → (s.startWork k x).obu.eyes[j] = s.obu.eyes[j] := by
  unfold State.startWork
  split
  · unfold State.startChute; split <;> exact ⟨rfl, rfl, fun _ _ => rfl⟩
  · unfold State.startCoil; split <;> exact ⟨rfl, rfl, fun _ _ => rfl⟩
  · unfold State.startEye; split
    · exact ⟨rfl, rfl, fun j hj => (slotItem_set _ k _ j).trans (if_neg (Ne.symm hj))⟩
    · exact ⟨rfl, rfl, fun _ _ => rfl⟩
  · unfold State.startDrive; split <;> exact ⟨rfl, rfl, fun _ _ => rfl⟩

theorem State.arm_scanned {k : Slot} {x : Trial} (n : Needs) (h : s.trial k = some x) (hx : x.begun = false) :
    s.Scanned (s.arm k x n) := by
  have h1 := State.takeResources_scanned n h hx
  obtain ⟨hv, hh, he⟩ := State.startWork_frame (s := s.takeResources k x n) k x
  refine ⟨(congrArg Vlg.records hv).trans h1.records, (congrArg Vlg.nextSerial hv).trans h1.serial, hh.trans h1.hlk,
    fun j hj => ?_⟩
  have hjk : j ≠ k := by rintro rfl; simp [hj x h] at hx
  exact ⟨arm_trial x n hjk, (he j hjk).trans (h1.spares j hj).2⟩

theorem scanTurn_scanned (acc : State × List Needs) (k : Slot) : acc.1.Scanned (scanTurn acc k).1 := by
  unfold scanTurn
  split
  · exact .refl _
  · rename_i x hx
    split
    · exact .refl _
    · rename_i hb
      have hb' : x.begun = false := by simpa using hb
      split
      · exact State.arm_scanned _ hx hb'
      · exact .refl _
      · exact State.setTrial_scanned hx hb'
      · exact State.setTrial_scanned hx hb'

theorem State.scan_scanned (s : State) : s.Scanned s.scan := by
  unfold State.scan
  generalize s.ttb.oldestFirst = ks
  suffices h : ∀ acc : State × List Needs, acc.1.Scanned (ks.foldl scanTurn acc).1 from h (s, [])
  induction ks with
  | nil => exact fun acc => .refl _
  | cons k ks ih => exact fun acc => (scanTurn_scanned acc k).trans (ih _)

theorem State.scanIf_scanned (s : State) (b : Bool) : s.Scanned (s.scanIf b) := by
  unfold State.scanIf; split
  · exact s.scan_scanned
  · exact .refl s

/-- The continuation of a trace completion's event runs on a state that was scanned before, and is scanned after. -/
theorem State.completionScan_scanned (s : State) (a b : Bool) (f : State → State) :
    ∃ x, s.Scanned x ∧ (f x).Scanned (s.completionScan a b f) := by
  unfold State.completionScan; split
  · split
    · exact ⟨_, State.choose_scanned.trans (State.scan_scanned _), .refl _⟩
    · exact ⟨_, State.choose_scanned, State.scan_scanned _⟩
  · exact ⟨s, .refl s, .refl _⟩

/-! ## Verdicts -/

/-- The verdict record of a begun trial as it joins the log (R170). -/
def State.verdictOf (s : State) (k : Slot) (x : Trial) (loss : Option Reason) : Verdict :=
  { s.compose k x loss with serial := s.vlg.nextSerial }

/-- A begun trial's verdict: the log, the LOG flag, its observations and its slot. -/
theorem State.writeVerdict_eq {k : Slot} {x : Trial} (h : s.trial k = some x) (hx : x.begun = true) (loss : Option Reason) :
    s.writeVerdict k loss = (((s.setVlg (s.vlg.write (s.compose k x loss))).raise .log).setObu (s.obu.discard k)).setTtb
      (s.ttb.empty k x.held) := by
  unfold State.writeVerdict; rw [h]; dsimp only; rw [if_pos hx]; rfl

/-- Without a begun trial no verdict is written. -/
theorem State.writeVerdict_cases (s : State) (k : Slot) (loss : Option Reason) :
    s.writeVerdict k loss = s ∨ ∃ x, s.trial k = some x ∧ x.begun = true := by
  unfold State.writeVerdict
  cases s.trial k with
  | none => exact .inl rfl
  | some x =>
    cases hb : x.begun with
    | true => exact .inr ⟨x, rfl, hb⟩
    | false => exact .inl (if_neg (by simp [hb]))

/-- A verdict joins the log at the tail, and the slot of its trial is EMPTY. -/
theorem State.writeVerdict_begun {k : Slot} {x : Trial} (h : s.trial k = some x) (hx : x.begun = true) (loss : Option Reason) :
    (s.writeVerdict k loss).vlg.records = s.vlg.records ++ [s.verdictOf k x loss] ∧ (s.writeVerdict k loss).trial k = none := by
  rw [State.writeVerdict_eq h hx]
  exact ⟨rfl, (slotItem_set s.ttb.slots k none k).trans (if_pos rfl)⟩

/-- A verdict spares every other trial. -/
theorem State.writeVerdict_spares {j k : Slot} (hj : j ≠ k) (loss : Option Reason) : s.Spares (s.writeVerdict k loss) j := by
  rcases s.writeVerdict_cases k loss with e | ⟨x, h, hx⟩
  · rw [e]; exact .refl s j
  · rw [State.writeVerdict_eq h hx]
    exact .of_eq ((slotItem_set s.ttb.slots k none j).trans (if_neg hj.symm))
      ((slotItem_set s.obu.eyes k none j).trans (if_neg hj.symm))

/-- The verdict of a trial that a loss or a reverse window ends (R145). -/
theorem State.verdictOf_aborted {k : Slot} {x : Trial} (h : x.ending = .open_) (r : Reason) :
    (s.verdictOf k x (some r)).outcome = .aborted ∧ (s.verdictOf k x (some r)).reason = some r := by
  simp [State.verdictOf, State.compose, State.verdictOutcome, h]

/-! ## Trials that end one after another -/

/-- From `s` to `t` the trials of the slots `ks` have ended for a reason, in that order, and every other begun trial is spared:
their verdicts have joined the log, ABORTED with the reason unless an end was set before, and their slots are EMPTY. -/
structure State.Ends (reason : Reason) (ks : List Slot) (s t : State) : Prop where
  records : ∃ new, t.vlg.records = s.vlg.records ++ new
    ∧ new.map Verdict.number = ks.filterMap (fun k => (s.trial k).map Trial.number)
    ∧ ∀ r ∈ new, ∃ k ∈ ks, ∃ x, s.trial k = some x ∧ x.number = r.number
        ∧ (x.ending = .open_ → r.outcome = .aborted ∧ r.reason = some reason)
  emptied : ∀ k ∈ ks, t.trial k = none
  spares : ∀ k, k ∉ ks → s.Spares t k

variable {reason : Reason} {ks ls : List Slot}

theorem State.Scanned.ends (h : s.Scanned t) : State.Ends reason [] s t :=
  ⟨⟨[], by rw [h.records, List.append_nil], rfl, by simp⟩, by simp, fun k _ => h.spares k⟩

/-- The trials of `ls` end after those of `ks`. -/
theorem State.Ends.trans (h : State.Ends reason ks s t) (g : State.Ends reason ls t u)
    (hl : ∀ k ∈ ls, k ∉ ks ∧ s.Settled k) : State.Ends reason (ks ++ ls) s u := by
  obtain ⟨⟨new, hr, hn, hv⟩, he, hs⟩ := h
  obtain ⟨⟨new', gr, gn, gv⟩, ge, gs⟩ := g
  have same : ∀ k ∈ ls, t.trial k = s.trial k := fun k hk => (hs k (hl k hk).1 (hl k hk).2).1
  refine ⟨⟨new ++ new', by rw [gr, hr, List.append_assoc], ?_, ?_⟩, ?_, ?_⟩
  · rw [List.map_append, List.filterMap_append, hn, gn]
    exact congrArg _ (filterMap_eq fun k hk => by rw [same k hk])
  · intro r hr
    rcases List.mem_append.1 hr with hr | hr
    · obtain ⟨k, hk, hx⟩ := hv r hr
      exact ⟨k, List.mem_append_left _ hk, hx⟩
    · obtain ⟨k, hk, hx⟩ := gv r hr
      rw [same k hk] at hx
      exact ⟨k, List.mem_append_right _ hk, hx⟩
  · intro k hk
    by_cases hkl : k ∈ ls
    · exact ge k hkl
    · have hn := he k ((List.mem_append.1 hk).resolve_right hkl)
      exact (gs k hkl (State.settled_of_none hn)).1.trans hn
  · intro k hk
    obtain ⟨h1, h2⟩ := not_or.1 (mt List.mem_append.2 hk)
    exact (hs k h1).trans (gs k h2)

theorem State.Ends.scanned (h : State.Ends reason ks s t) (g : t.Scanned u) : State.Ends reason ks s u := by
  simpa using h.trans g.ends (by simp)

theorem State.Scanned.thenEnds (h : s.Scanned t) (g : State.Ends reason ks t u) (hk : ∀ k ∈ ks, s.Settled k) :
    State.Ends reason ks s u := by
  simpa using (h.ends (reason := reason)).trans g fun k m => ⟨by simp, hk k m⟩

/-- The verdict of a begun trial, written for a loss or a reverse window. -/
theorem State.writeVerdict_ends {k : Slot} {x : Trial} (h : s.trial k = some x) (hx : x.begun = true) :
    State.Ends reason [k] s (s.writeVerdict k (some reason)) := by
  obtain ⟨hr, hn⟩ := State.writeVerdict_begun h hx (some reason)
  refine ⟨⟨[s.verdictOf k x (some reason)], hr, by simp [h, State.verdictOf, State.compose], ?_⟩, by simpa using hn, ?_⟩
  · intro r hm
    obtain rfl := List.mem_singleton.1 hm
    exact ⟨k, List.mem_singleton_self k, x, h, rfl, fun ho => State.verdictOf_aborted ho reason⟩
  · exact fun j hj => State.writeVerdict_spares (by simpa using hj) _

/-- An ARMED trial whose entry is gone ends. -/
theorem State.endArmed_ends {k : Slot} {x : Trial} (h : s.trial k = some x) (hx : x.state = .armed) (c : TraceCause) :
    State.Ends reason [k] s (s.endArmed k (some reason) c true) := by
  have hb : x.begun = true := by simp [Trial.begun, hx]
  unfold State.endArmed; rw [h]; dsimp only; rw [if_pos hx]
  obtain ⟨y, h1, h2⟩ := State.completionScan_scanned (s.setTru (s.tru.complete x.number c))
    (s.tru.fillingFor x.number).isSome true fun s => (s.writeVerdict k (some reason)).scanIf true
  have h0 := (State.setTru_scanned (s := s) (s.tru.complete x.number c)).trans h1
  have hk := State.settled_of_some h hb
  have hy : y.trial k = some x := ((h0.spares k hk).1).trans h
  exact h0.thenEnds (((State.writeVerdict_ends hy hb).scanned (State.scanIf_scanned _ _)).scanned h2) (by simpa using hk)

/-- An EYE trial ends with its observation. -/
theorem State.closeEye_ends {k : Slot} {x : Trial} (h : s.trial k = some x) (hx : x.begun = true) (he : s.obu.eyes[k] ≠ none) :
    State.Ends reason [k] s (s.closeEye k (some reason) true) := by
  unfold State.closeEye
  cases ho : s.obu.eyes[k] with
  | none => exact absurd ho he
  | some e =>
    have h1 : s.Scanned (s.setObu (s.obu.unobserve (some e.line))) := ⟨rfl, rfl, rfl, .refl s⟩
    exact (h1.thenEnds (State.writeVerdict_ends h hx) (by simpa using State.settled_of_some h hx)).scanned
      (State.scanIf_scanned _ _)

/-- What ends the trial of one slot, wherever a condition on its trial and its observation holds, ends those of a list. -/
theorem State.foldl_ends {f : State → Slot → State} {p : State → Slot → Prop}
    (hset : ∀ s k, p s k → s.Settled k)
    (hsame : ∀ s t k, t.trial k = s.trial k → t.obu.eyes[k] = s.obu.eyes[k] → p s k → p t k)
    (hf : ∀ s k, p s k → State.Ends reason [k] s (f s k)) (hn : ks.Nodup) (hp : ∀ k ∈ ks, p s k) :
    State.Ends reason ks s (ks.foldl f s) := by
  induction ks generalizing s with
  | nil => exact (State.Scanned.refl s).ends
  | cons k ks ih =>
    obtain ⟨hk, hn⟩ := List.nodup_cons.1 hn
    have h1 := hf s k (hp k List.mem_cons_self)
    have hset' : ∀ j ∈ ks, j ∉ [k] ∧ s.Settled j := fun j hj =>
      ⟨fun e => hk (List.mem_singleton.1 e ▸ hj), hset s j (hp j (List.mem_cons_of_mem k hj))⟩
    have hp' : ∀ j ∈ ks, p (f s k) j := fun j hj =>
      have ⟨e1, e2⟩ := h1.spares j (hset' j hj).1 (hset' j hj).2
      hsame s _ j e1 e2 (hp j (List.mem_cons_of_mem k hj))
    exact h1.trans (ih hn hp') hset'

end Sys2Proof.Machine
end

section
/-! Losses and reverse windows (R14, R90, R91, R141): every trial of a fire entry or of an eye observation ends, in load
order. -/

namespace Sys2Proof.Machine

variable {s t u x : State} {reason : Reason} {ks ls : List Slot}

/-! ## The two groups of trials -/

theorem State.endArmed_foldl_ends (hn : ks.Nodup) (h : ∀ k ∈ ks, ∃ x, s.trial k = some x ∧ x.state = .armed) :
    State.Ends reason ks s (ks.foldl (fun s k => s.endArmed k (some reason) .removed true) s) := by
  refine State.foldl_ends (p := fun s k => ∃ x, s.trial k = some x ∧ x.state = .armed) ?_ ?_ ?_ hn h
  · rintro s k ⟨x, hx, ha⟩; exact State.settled_of_some hx (by simp [Trial.begun, ha])
  · intro s t k e _ hp; simpa [e] using hp
  · rintro s k ⟨x, hx, ha⟩; exact State.endArmed_ends hx ha _

theorem State.closeEye_foldl_ends (hn : ks.Nodup)
    (h : ∀ k ∈ ks, (∃ x, s.trial k = some x ∧ x.begun = true) ∧ s.obu.eyes[k] ≠ none) :
    State.Ends reason ks s (ks.foldl (fun s k => s.closeEye k (some reason) true) s) := by
  refine State.foldl_ends (p := fun s k => (∃ x, s.trial k = some x ∧ x.begun = true) ∧ s.obu.eyes[k] ≠ none) ?_ ?_ ?_ hn h
  · rintro s k ⟨⟨x, hx, hb⟩, -⟩; exact State.settled_of_some hx hb
  · intro s t k e e' hp; simpa [e, e'] using hp
  · rintro s k ⟨⟨x, hx, hb⟩, he⟩; exact State.closeEye_ends hx hb he

/-- The slots with a fire entry, oldest trial first. -/
def State.firedSlots (s : State) : List Slot := s.ttb.oldestFirst.filter fun k => s.fsc.any fun e => decide (e.slot = k)

/-- What `State.Tied` says of the trials that a loss ends: those of the fire entries are ARMED, those of the eye observations
ACTIVE. -/
def State.Aimed (s : State) : Prop :=
  (∀ e ∈ s.fsc, ∃ t, s.trial e.slot = some t ∧ t.state = .armed)
    ∧ ∀ k : Slot, s.obu.eyes[k] ≠ none → ∃ t, s.trial k = some t ∧ t.state = .active

theorem State.Tied.aimed (h : s.Tied) : s.Aimed := by
  refine ⟨fun e he => ?_, fun k hk => ?_⟩
  · obtain ⟨t, ht, ha, -⟩ := h.entry e he; exact ⟨t, ht, ha⟩
  · obtain ⟨t, ht, ha, -⟩ := (h.eye k).1 hk; exact ⟨t, ht, ha⟩

theorem State.Aimed.fired (h : s.Aimed) {k : Slot} (hk : k ∈ s.firedSlots) : ∃ t, s.trial k = some t ∧ t.state = .armed := by
  have hm := (List.mem_filter.1 hk).2
  simp only [List.any_eq_true, decide_eq_true_eq] at hm
  obtain ⟨e, he, rfl⟩ := hm
  exact h.1 e he

theorem State.Aimed.seen (h : s.Aimed) {k : Slot} (hk : k ∈ s.eyeSlots) :
    (∃ t, s.trial k = some t ∧ t.state = .active) ∧ s.obu.eyes[k] ≠ none := by
  have hm : s.obu.eyes[k] ≠ none := Option.isSome_iff_ne_none.1 (List.mem_filter.1 hk).2
  exact ⟨h.2 k hm, hm⟩

/-- The two groups are apart, for a trial is ARMED or ACTIVE. -/
theorem State.Aimed.fired_apart (h : s.Aimed) {k : Slot} (hk : k ∈ s.firedSlots) : k ∉ s.eyeSlots ∧ s.Settled k := by
  obtain ⟨t, ht, ha⟩ := h.fired hk
  refine ⟨fun he => ?_, State.settled_of_some ht (by simp [Trial.begun, ha])⟩
  obtain ⟨⟨u, hu, hc⟩, -⟩ := h.seen he
  rw [ht] at hu; cases hu; simp [ha] at hc

theorem State.Aimed.seen_apart (h : s.Aimed) {k : Slot} (hk : k ∈ s.eyeSlots) : k ∉ s.firedSlots ∧ s.Settled k := by
  obtain ⟨⟨t, ht, ha⟩, -⟩ := h.seen hk
  exact ⟨fun hf => (h.fired_apart hf).1 hk, State.settled_of_some ht (by simp [Trial.begun, ha])⟩

/-- The group of the fire entries ends from any state that has spared it. -/
theorem State.Aimed.fired_end (h : s.Aimed) (hy : ∀ k ∈ s.firedSlots, s.Spares x k) : State.Ends reason s.firedSlots x
    (s.firedSlots.foldl (fun s k => s.endArmed k (some reason) .removed true) x) :=
  State.endArmed_foldl_ends (List.Pairwise.filter _ s.ttb.oldestFirst_nodup) fun k hk =>
    (hy k hk (h.fired_apart hk).2).1 ▸ h.fired hk

/-- So does the group of the eye observations. -/
theorem State.Aimed.seen_end (h : s.Aimed) (hy : ∀ k ∈ s.eyeSlots, s.Spares x k) : State.Ends reason s.eyeSlots x
    (s.eyeSlots.foldl (fun s k => s.closeEye k (some reason) true) x) :=
  State.closeEye_foldl_ends (List.Pairwise.filter _ s.ttb.oldestFirst_nodup) fun k hk => by
    obtain ⟨⟨t, ht, ha⟩, he⟩ := h.seen hk
    obtain ⟨e1, e2⟩ := hy k hk (h.seen_apart hk).2
    exact ⟨⟨t, e1.trans ht, by simp [Trial.begun, ha]⟩, e2 ▸ he⟩

theorem State.Aimed.fired_first (h : s.Aimed) (hy : s.Scanned x) : State.Ends reason (s.firedSlots ++ s.eyeSlots) s
    (s.eyeSlots.foldl (fun s k => s.closeEye k (some reason) true)
      (s.firedSlots.foldl (fun s k => s.endArmed k (some reason) .removed true) x)) :=
  have h1 := hy.thenEnds (h.fired_end fun k _ => hy.spares k) fun _ hk => (h.fired_apart hk).2
  h1.trans (h.seen_end fun k hk => h1.spares k (h.seen_apart hk).1) fun _ hk => h.seen_apart hk

theorem State.Aimed.seen_first (h : s.Aimed) (hy : s.Scanned x) : State.Ends reason (s.eyeSlots ++ s.firedSlots) s
    (s.firedSlots.foldl (fun s k => s.endArmed k (some reason) .removed true)
      (s.eyeSlots.foldl (fun s k => s.closeEye k (some reason) true) x)) :=
  have h1 := hy.thenEnds (h.seen_end fun k _ => hy.spares k) fun _ hk => (h.seen_apart hk).2
  h1.trans (h.fired_end fun k hk => h1.spares k (h.fired_apart hk).1) fun _ hk => h.fired_apart hk

/-- One group ends after the other, whichever comes first. -/
theorem State.abortPositions_ends (h : s.Aimed) :
    State.Ends reason (s.firedSlots ++ s.eyeSlots) s (s.abortPositions reason)
      ∨ State.Ends reason (s.eyeSlots ++ s.firedSlots) s (s.abortPositions reason) := by
  have h0 : s.Scanned (s.setFsc []) := ⟨rfl, rfl, rfl, .refl s⟩
  have h0' : s.Scanned (s.setFsc []).choose := h0.trans State.choose_scanned
  unfold State.abortPositions; dsimp only
  split
  · exact .inl (h.fired_first h0)
  · split
    · exact .inr (h.seen_first h0')
    · exact .inl (h.fired_first h0')

/-- The numbers of the trials in the slots that `p` picks are those of the picked slots in load order. -/
theorem State.numbersOf_slots (s : State) (p : Slot → Bool) :
    (s.numbersOf fun k _ => p k) = (s.ttb.oldestFirst.filter p).filterMap fun k => (s.trial k).map Trial.number := by
  rw [List.filterMap_filter]
  refine filterMap_eq fun k _ => ?_
  cases h : p k <;> cases s.trial k <;> simp [h]

/-- Trials that have ended in these two groups are a loss's or a reverse window's. -/
theorem State.Ends.abortsPositions (h : s.Aimed) (g : State.Ends reason ks s t)
    (hk : ks = s.firedSlots ++ s.eyeSlots ∨ ks = s.eyeSlots ++ s.firedSlots) : s.AbortsPositions t reason := by
  obtain ⟨new, hr, hn, hv⟩ := g.records
  refine ⟨new, hr, ?_, fun r hr => ?_, fun k hk' => g.emptied k ?_⟩
  · rw [State.numbersOf_slots, State.numbersOf_slots, hn, ← List.filterMap_append, ← List.filterMap_append]
    rcases hk with rfl | rfl
    · exact .inl rfl
    · exact .inr rfl
  · obtain ⟨k, -, y, hy⟩ := hv r hr; exact ⟨k, y, hy⟩
  · have hm : k ∈ s.firedSlots ∨ k ∈ s.eyeSlots := by
      rcases hk' with he | ⟨e, he, rfl⟩
      · obtain ⟨y, hy, -⟩ := h.2 k he
        refine .inr (List.mem_filter.2 ⟨(s.ttb.mem_oldestFirst k).2 ?_, Option.isSome_iff_ne_none.2 he⟩)
        exact fun hn => by simp [State.trial, hn] at hy
      · obtain ⟨y, hy, -⟩ := h.1 e he
        refine .inl (List.mem_filter.2 ⟨(s.ttb.mem_oldestFirst _).2 ?_, by simpa using ⟨e, he, rfl⟩⟩)
        exact fun hn => by simp [State.trial, hn] at hy
    rcases hk with rfl | rfl
    · exact List.mem_append.2 hm
    · exact List.mem_append.2 hm.symm

theorem State.abortPositions_aborts (h : s.Aimed) : s.AbortsPositions (s.abortPositions reason) reason := by
  rcases State.abortPositions_ends (reason := reason) h with g | g
  · exact g.abortsPositions h (.inl rfl)
  · exact g.abortsPositions h (.inr rfl)

/-- A state that shows a loss the same as another: the table, the slots of the fire entries and of the eye observations, the
log. -/
structure State.SameAims (s x : State) : Prop where
  ttb : x.ttb = s.ttb
  slots : x.fsc.map FireEntry.slot = s.fsc.map FireEntry.slot
  eyes : ∀ k : Slot, x.obu.eyes[k] = none ↔ s.obu.eyes[k] = none
  records : x.vlg.records = s.vlg.records

theorem State.SameAims.trial (h : s.SameAims x) (k : Slot) : x.trial k = s.trial k := by simp only [State.trial, h.ttb]

theorem State.SameAims.entry (h : s.SameAims x) (k : Slot) : (∃ e ∈ x.fsc, e.slot = k) ↔ ∃ e ∈ s.fsc, e.slot = k := by
  rw [← List.mem_map, h.slots, List.mem_map]

theorem State.SameAims.aimed (h : s.SameAims x) (g : s.Aimed) : x.Aimed := by
  refine ⟨fun e he => ?_, fun k hk => ?_⟩
  · obtain ⟨e', he', hs⟩ := (h.entry e.slot).1 ⟨e, he, rfl⟩
    rw [h.trial, ← hs]; exact g.1 e' he'
  · rw [h.trial]; exact g.2 k (mt (h.eyes k).2 hk)

theorem State.SameAims.aborts (h : s.SameAims x) (g : x.AbortsPositions u reason) : s.AbortsPositions u reason := by
  have hn : ∀ p : Slot → Bool, (x.numbersOf fun k _ => p k) = s.numbersOf fun k _ => p k := by
    intro p; simp only [State.numbersOf, h.trial, h.ttb]
  have hf : ∀ k : Slot, (x.fsc.any fun e => decide (e.slot = k)) = s.fsc.any fun e => decide (e.slot = k) := by
    intro k
    have := h.entry k
    rw [Bool.eq_iff_iff]; simpa using this
  have he : ∀ k : Slot, (x.obu.eyes[k]).isSome = (s.obu.eyes[k]).isSome := by
    intro k
    rw [Bool.eq_iff_iff, Option.isSome_iff_ne_none, Option.isSome_iff_ne_none]; exact not_congr (h.eyes k)
  unfold State.AbortsPositions at g
  simp only [hn, hf, he, h.records, h.trial, h.entry, ne_eq, h.eyes] at g
  exact g

end Sys2Proof.Machine
end

section
/-! The entry into LOST (R14, R90, R141), and the decoder's samples (R4, R6). -/

namespace Sys2Proof.Machine

variable {s t u x : State} {reason : Reason} {live : Prop}

/-! ## What effects keep -/

theorem Hlk.raise_track (h : Hlk) (k : NoticeKind) (ht : h.flags.track = true) : (h.raise k).flags.track = true := by
  unfold Hlk.raise; split
  · exact ht
  · cases k
    case track => rfl
    all_goals exact ht

/-- Raising a flag leaves it set, whether or not it was. -/
theorem Hlk.raise_track_self (h : Hlk) : (h.raise .track).flags.track = true := by
  unfold Hlk.raise; split
  · assumption
  · rfl

/-- No effect clears the TRACK flag. -/
theorem Effects.track (e : Effects live s t) (h : s.hlk.flags.track = true) : t.hlk.flags.track = true := by
  refine e.keep (I := fun s => s.hlk.flags.track = true) (fun s t e h => ?_) h
  cases e with
  | raise k => exact s.hlk.raise_track k h
  | verdict k r =>
    rcases s.writeVerdict_cases k r with e | ⟨x, hx, hb⟩
    · rw [e]; exact h
    · rw [State.writeVerdict_eq hx hb]; exact s.hlk.raise_track .log h
  | take k x n =>
    obtain ⟨b, u, e⟩ := s.takeResources_eq k x n
    rw [e]; exact h
  | _ => exact h

/-- No entry joins the fire list while the tracker is not SYNCED. -/
theorem Effects.noEntries (e : Effects live s t) (hs : s.ltr.trust ≠ .synced) (h : s.fsc = []) : t.fsc = [] := by
  refine (e.keep (I := fun s => s.ltr.trust ≠ .synced ∧ s.fsc = []) (fun s t e h => ?_) ⟨hs, h⟩).2
  refine ⟨State.ltr_of_kept e.kept_eq ▸ h.1, ?_⟩
  cases e with
  | entries l hl => rw [h.2] at hl; exact List.length_eq_zero_iff.1 (Nat.le_zero.1 hl)
  | entry e _ hp => exact absurd hp h.1
  | verdict k r =>
    rcases s.writeVerdict_cases k r with e | ⟨x, hx, hb⟩
    · rw [e]; exact h.2
    · rw [State.writeVerdict_eq hx hb]; exact h.2
  | take k x n =>
    obtain ⟨b, u, e⟩ := s.takeResources_eq k x n
    rw [e]; exact h.2
  | _ => exact h.2

/-! ## Losses -/

/-- A loss or a reverse window after its entries have left the fire list. -/
theorem State.abortPositions_effects_after (h : Lives live s) (r : Reason) :
    Effects live (s.setFsc []) (s.abortPositions r) := by
  have h0 : Lives live (s.setFsc []) := h
  have fires : ∀ (ks : List Slot) (s : State), Lives live s →
      Effects live s (ks.foldl (fun s k => s.endArmed k (some r) .removed true) s) :=
    Effects.foldl_lives fun s k hs => State.endArmed_effects hs k _ _ _
  have eyes : ∀ (ks : List Slot) (s : State), Lives live s →
      Effects live s (ks.foldl (fun s k => s.closeEye k (some r) true) s) :=
    Effects.foldl_lives fun s k hs => State.closeEye_effects hs k _ _
  have choose : Effects live (s.setFsc []) (s.setFsc []).choose := .one (.choose _)
  unfold State.abortPositions; dsimp only
  split
  · exact (fires _ _ h0).next h0 (eyes _ _)
  · split
    · exact choose.next h0 fun h1 => (eyes _ _ h1).next h1 (fires _ _)
    · exact choose.next h0 fun h1 => (fires _ _ h1).next h1 (eyes _ _)

/-- A lost tracker has no fire entry. -/
theorem State.lose_fsc (s : State) : s.lose.fsc = [] := by
  have hl : ∀ s : State, Lives True s := fun _ _ => trivial
  have e := (State.abortPositions_effects_after (hl ((s.setLtr s.ltr.lose).raise .track)) .positionLost).trans
    (State.scan_effects (hl _))
  exact e.noEntries (by simp [Ltr.lose]) rfl

theorem State.lose_track (s : State) : s.lose.hlk.flags.track = true := by
  have hl : ∀ s : State, Lives True s := fun _ _ => trivial
  have e := (State.abortPositions_effects (hl ((s.setLtr s.ltr.lose).raise .track)) .positionLost).trans
    (State.scan_effects (hl _))
  exact e.track s.hlk.raise_track_self

/-- A scan after the verdicts of a loss changes none of them, and fills no slot. -/
theorem State.AbortsPositions.scanned (g : s.AbortsPositions t reason) (h : t.Scanned u) : s.AbortsPositions u reason := by
  obtain ⟨new, hr, hn, hv, he⟩ := g
  exact ⟨new, h.records.trans hr, hn, hv, fun k hk => (h.spares k (State.settled_of_none (he k hk))).1.trans (he k hk)⟩

theorem State.lose_aborts (h : s.SameAims x) (hs : s.Aimed) : s.AbortsPositions x.lose .positionLost := by
  have h' : s.SameAims ((x.setLtr x.ltr.lose).raise .track) := ⟨h.ttb, h.slots, h.eyes, h.records⟩
  exact (h'.aborts (State.abortPositions_aborts (h'.aimed hs))).scanned (State.scan_scanned _)

/-- Where only the tracker differs of what is kept, it is the tracker that says how. -/
theorem State.kept_setLtr_ltr {l : Ltr} (h : u.kept = (s.setLtr l).kept) : u.ltr = l ∧ u.kept = (s.setLtr u.ltr).kept := by
  have e : u.ltr = l := State.ltr_of_kept h
  exact ⟨e, e ▸ h⟩

/-! ## The decoder -/

/-- The decoder's table, cell by cell. -/
theorem decoderStep_table : ∀ a b c d : Level, decoderStep (a, b) (c, d) =
    if c = a then (if d = b then .still else if a = b then .backward else .forward)
    else if d = b then (if a = b then .forward else .backward) else .illegal := by
  rintro (_ | _) (_ | _) (_ | _) (_ | _) <;> rfl

theorem exec_illegal {dt : Time} {p : Level × Level} (h : s.ltr.ref = some p) :
    exec (.illegalTransition dt) s = .next (s.after dt).illegal.kick :=
  timed_due (by simp [State.decoding, h])

theorem exec_firstSample {dt : Time} {a b : Level} (h : s.ltr.ref = none) :
    exec (.firstDecoderSample dt a b) s = .next ((s.after dt).setLtr (s.ltr.firstSample a b)).kick :=
  timed_due (due := fun s => !s.decoding) (effect := fun s => s.setLtr (s.ltr.firstSample a b)) (by simp [State.decoding, h])

/-- Settles O6: an illegal transition of a SYNCED tracker is a loss, of any other a move of the reference. -/
theorem decoderSamples : Obligations.DecoderSamples := by
  refine ⟨decoderStep_table, fun dt s a b h => exec_firstSample h, ?_, ?_⟩
  · intro dt s a b h ht
    have e : (s.after dt).illegal = (s.after dt).setLtr s.ltr.illegal := if_neg ht
    rw [exec_illegal h, e, Ltr.illegal, h]; rfl
  · intro dt s a b h ht
    have e : (s.after dt).illegal = ((s.after dt).setLtr s.ltr.illegal).lose := if_pos ht
    have hk := (s.after dt).illegal_kept
    rw [if_pos (show (s.after dt).ltr.trust = .synced from ht)] at hk
    obtain ⟨hl, hk⟩ := State.kept_setLtr_ltr hk
    refine ⟨_, exec_illegal h, ?_, hk, ?_, ?_, fun tied => ?_⟩
    · rw [hl, State.after_ltr, Ltr.illegal, Ltr.lose, h]; rfl
    · rw [e]; exact State.lose_fsc _
    · rw [e]; exact State.lose_track _
    · rw [e]; exact State.lose_aborts ⟨rfl, rfl, fun _ => .rfl, rfl⟩ tied.aimed

end Sys2Proof.Machine
end

section
/-! What fires, and the movement of the eye observations, leave of the trials (R93, R137, R140). -/

namespace Sys2Proof.Machine

variable {s t u x : State} {k j : Slot}

/-! ## Fires -/

/-- What fires leave as it is: the log, every eye observation, and every trial that is not ARMED. -/
structure State.Fired (s t : State) : Prop where
  vlg : t.vlg = s.vlg
  eyes : t.obu.eyes = s.obu.eyes
  trials : ∀ k y, s.trial k = some y → y.state ≠ .armed → t.trial k = some y

theorem State.Fired.of_eq (hv : t.vlg = s.vlg) (he : t.obu.eyes = s.obu.eyes) (hb : t.ttb = s.ttb) : s.Fired t :=
  ⟨hv, he, fun _ _ h _ => by rw [← h]; simp only [State.trial, hb]⟩

theorem State.Fired.trans (h : s.Fired t) (g : t.Fired u) : s.Fired u :=
  ⟨g.vlg.trans h.vlg, g.eyes.trans h.eyes, fun k y hy ha => g.trials k y (h.trials k y hy ha) ha⟩

theorem State.openWatchFor_fired (s : State) (k : Slot) (n : Nat) (i : FireInfo) (r : ChuteRecord) :
    s.Fired (s.openWatchFor k n i r) := by
  unfold State.openWatchFor; dsimp only; split
  · exact .of_eq rfl (by rw [State.setObu_obu, apply_ite Obu.eyes]; exact ite_self _) rfl
  · exact .of_eq rfl rfl rfl

theorem State.fire_fired (s : State) (e : FireEntry) (i : FireInfo) : s.Fired (s.fire e i) := by
  have refl : s.Fired s := .of_eq rfl rfl rfl
  unfold State.fire
  split
  · exact refl
  · rename_i y hy
    split
    · rename_i ha
      have h1 : s.Fired (s.setTrial e.slot (some { y with state := .active })) := by
        refine ⟨rfl, rfl, fun k z hz hn => ?_⟩
        rw [State.setTrial_trial, if_neg, hz]
        rintro rfl
        rw [hy] at hz; cases hz; exact hn ha
      dsimp only
      split
      · refine h1.trans (State.Fired.trans ?_ (State.openWatchFor_fired _ _ _ _ _))
        exact .of_eq rfl rfl rfl
      · exact h1
    · exact refl

theorem State.runEntries_fired (s : State) (f : FireEntry → EntryStep) : s.Fired (s.runEntries f) := by
  have fold : ∀ (xs : List (FireEntry × FireInfo)) (s : State), s.Fired (xs.foldl (fun s x => s.fire x.1 x.2) s) := by
    intro xs
    induction xs with
    | nil => exact fun s => .of_eq rfl rfl rfl
    | cons y xs ih => exact fun s => (s.fire_fired y.1 y.2).trans (ih _)
  refine State.Fired.trans ?_ (fold _ _)
  exact .of_eq rfl rfl rfl

theorem State.runEntries_ltr (s : State) (f : FireEntry → EntryStep) : (s.runEntries f).ltr = s.ltr :=
  State.ltr_of_kept (s.runEntries_kept f)

/-- The fires of an event that has moved the tracker. -/
theorem State.event_fired (s : State) (dt : Time) (l : Ltr) (f : FireEntry → EntryStep) :
    s.Fired (((s.after dt).setLtr l).runEntries f) := by
  refine State.Fired.trans ?_ (State.runEntries_fired _ f)
  exact .of_eq rfl rfl rfl

/-- Where no entry fires, an event on the fire list changes the list alone. -/
theorem State.runEntries_keep {f : FireEntry → EntryStep} (g : FireEntry → FireEntry) (h : ∀ e, f e = .keep (g e)) :
    s.runEntries f = s.setFsc (s.fsc.map g) := by
  have hfires : s.fsc.filterMap (fun _ => (none : Option (FireEntry × FireInfo))) = [] :=
    List.filterMap_eq_nil_iff.2 fun _ _ => rfl
  simp only [State.runEntries, h, EntryStep.info, EntryStep.kept, Option.map_none, hfires, List.foldl_nil]
  rw [← List.filterMap_eq_map]; rfl

theorem State.runEntries_nil (h : s.fsc = []) (f : FireEntry → EntryStep) : s.runEntries f = s := by
  obtain ⟨T, ltr, lmx, zmr, ttb, fsc, cdu, tru, obu, dlk, vlg, hlk, choices, pending⟩ := s
  subst h; rfl

/-! ## Eye observations -/

/-- Every observation's progress moved, before those at u_end end. -/
def State.advanceEyes (s : State) (d : Int) : State :=
  s.setObu { s.obu with eyes := s.obu.eyes.map (Option.map fun e => e.advance s.ltr.P d) }

theorem State.advanceEyes_eyes (s : State) (d : Int) (k : Slot) :
    (s.advanceEyes d).obu.eyes[k] = (s.obu.eyes[k]).map fun e => e.advance s.ltr.P d := by
  simp [State.advanceEyes]

/-- The slots whose observation a movement by `d` brings to u_end, oldest trial first. -/
def State.eyesDone (s : State) (d : Int) : List Slot :=
  s.eyeSlots.filter fun k => match (s.advanceEyes d).obu.eyes[k] with | some e => e.done | none => false

theorem State.moveEyes_backward {d : Int} (h : d ≤ 0) : s.moveEyes d = s.advanceEyes d := if_neg (by omega)

theorem State.moveEyes_forward {d : Int} (h : 0 < d) :
    s.moveEyes d = (s.eyesDone d).foldl (fun s k => s.closeEye k none true) (s.advanceEyes d) := if_pos h

theorem State.mem_eyesDone (s : State) (d : Int) (k : Slot) :
    k ∈ s.eyesDone d ↔ s.trial k ≠ none ∧ ∃ e, s.obu.eyes[k] = some e ∧ e.uEnd ≤ e.u + d := by
  rw [State.eyesDone, List.mem_filter, State.eyeSlots, List.mem_filter, Ttb.mem_oldestFirst, State.advanceEyes_eyes]
  cases s.obu.eyes[k] with
  | none => simp
  | some e => simp [EyeObservation.done, EyeObservation.advance, State.trial]

theorem State.moveEyes_none (h : ∀ k : Slot, s.obu.eyes[k] = none) (d : Int) : s.moveEyes d = s := by
  have hv : s.obu.eyes.map (Option.map fun e => e.advance s.ltr.P d) = s.obu.eyes := by
    refine Vector.ext fun i hi => ?_
    have hn : s.obu.eyes[i] = none := h ⟨i, hi⟩
    simp [hn]
  have ha : s.advanceEyes d = s := by unfold State.advanceEyes; rw [hv]; rfl
  by_cases hd : 0 < d
  · have he : s.eyesDone d = [] := List.eq_nil_iff_forall_not_mem.2 fun k hk => by
      obtain ⟨-, e, he, -⟩ := (s.mem_eyesDone d k).1 hk
      simp [h k] at he
    rw [State.moveEyes_forward hd, he, ha]; rfl
  · rw [State.moveEyes_backward (by omega), ha]

theorem State.closeEye_spares (hj : j ≠ k) (loss : Option Reason) (live : Bool) : s.Spares (s.closeEye k loss live) j := by
  unfold State.closeEye; split
  · exact .refl s j
  · refine State.Spares.trans ?_ ((State.scanIf_scanned _ _).spares j)
    refine State.Spares.trans ?_ (State.writeVerdict_spares hj loss)
    exact .of_eq rfl rfl

theorem State.closeEye_foldl_spares {ks : List Slot} (hj : j ∉ ks) (s : State) :
    s.Spares (ks.foldl (fun s k => s.closeEye k none true) s) j := by
  induction ks generalizing s with
  | nil => exact .refl s j
  | cons k ks ih =>
    obtain ⟨h1, h2⟩ := not_or.1 (mt List.mem_cons.2 hj)
    exact (State.closeEye_spares h1 none true).trans (ih h2 _)

/-- A trial that a movement does not bring to u_end goes on, with its progress moved. -/
theorem State.moveEyes_goesOn {y : Trial} {e : EyeObservation} {d : Int} (hy : s.trial k = some y) (hb : y.begun = true)
    (he : s.obu.eyes[k] = some e) (hd : d ≤ 0 ∨ e.u + d < e.uEnd) :
    (s.moveEyes d).trial k = some y ∧ (s.moveEyes d).obu.eyes[k] = some (e.advance s.ltr.P d) := by
  have h1 : (s.advanceEyes d).obu.eyes[k] = some (e.advance s.ltr.P d) := by rw [State.advanceEyes_eyes, he]; rfl
  by_cases hp : 0 < d
  · have hk : k ∉ s.eyesDone d := fun hm => by
      obtain ⟨-, e', he', hu⟩ := (s.mem_eyesDone d k).1 hm
      rw [he] at he'; cases he'; omega
    rw [State.moveEyes_forward hp]
    obtain ⟨g1, g2⟩ := State.closeEye_foldl_spares hk (s.advanceEyes d) (State.settled_of_some hy hb)
    exact ⟨g1.trans hy, g2.trans h1⟩
  · rw [State.moveEyes_backward (by omega)]; exact ⟨hy, h1⟩

/-- The progress moves, and the passes that it comes to close, as R137 says. -/
theorem EyeObservation.advance_movesInto (e : EyeObservation) (pitch : Nat) (d : Int) :
    e.MovesInto (e.advance pitch d) pitch d := by
  have h : e.closedBy pitch (e.u + d)
      = (List.range e.passes).countP fun j => decide (e.uE0 + (j * pitch + pitch / 2 : Nat) ≤ e.u + d) := by
    rw [EyeObservation.closedBy, List.countP_eq_length_filter]
    simp only [EyeObservation.passAt, Int.natCast_add, Int.add_assoc]
  rw [EyeObservation.MovesInto, ← h]; rfl

/-- After fires and a movement of the loop. -/
theorem State.Fired.eyesMoveInto (h : s.Fired x) (hP : x.ltr.P = s.ltr.P) (d : Int) : s.EyesMoveInto (x.moveEyes d) d := by
  intro k y e hy ha he hd
  have hx := h.trials k y hy (by simp [ha])
  obtain ⟨h1, h2⟩ := State.moveEyes_goesOn hx (by simp [Trial.begun, ha]) (h.eyes ▸ he) hd
  exact ⟨h1, _, h2, hP ▸ e.advance_movesInto x.ltr.P d⟩

/-! ## The end at u_end -/

/-- At u_end every pass is closed. -/
theorem EyeObservation.closed_at_end {e : EyeObservation} {pitch : Nat} {d : Int} (hu : e.uEnd ≤ e.u + d) (hp : 1 ≤ e.passes)
    (hE : e.uEnd = e.uE0 + ((e.passes - 1) * pitch + pitch / 2 : Nat)) (hc : e.closed ≤ e.passes) :
    (e.advance pitch d).closed = e.passes := by
  have hall : (List.range e.passes).filter (fun j => decide (e.passAt pitch j + ((pitch / 2 : Nat) : Int) ≤ e.u + d))
      = List.range e.passes := by
    refine List.filter_eq_self.2 fun j hj => ?_
    have hj' : j * pitch ≤ (e.passes - 1) * pitch := Nat.mul_le_mul_right _ (by have := List.mem_range.1 hj; omega)
    have hle : e.uE0 + ((j * pitch : Nat) : Int) + ((pitch / 2 : Nat) : Int) ≤ e.u + d := by omega
    exact decide_eq_true hle
  change max e.closed (e.closedBy pitch (e.u + d)) = e.passes
  rw [EyeObservation.closedBy, hall, List.length_range]; omega

/-- The verdict of an EYE trial at u_end (R140, R145, R147). -/
theorem State.verdictOf_eye {y : Trial} {e : EyeObservation} (hk : y.target.kind = .eye) (ho : y.ending = .open_)
    (he : s.obu.eyes[k] = some e) :
    (s.verdictOf k y none).kind = .eye ∧ (s.verdictOf k y none).reason = none
      ∧ (s.verdictOf k y none).outcome = e.finish.sensorOutcome ∧ (s.verdictOf k y none).sensor = some e.finish.part := by
  simp only [State.verdictOf, State.compose, State.verdictOutcome, ho, State.workOutcome, hk, he, if_true, and_self]

/-- The end of one EYE trial without a loss: its verdict, and its slot EMPTY. -/
theorem State.closeEye_verdict {y : Trial} {e : EyeObservation} (hy : s.trial k = some y) (hb : y.begun = true)
    (he : s.obu.eyes[k] = some e) :
    (s.closeEye k none true).vlg.records = s.vlg.records ++ [s.verdictOf k y none]
      ∧ (s.closeEye k none true).trial k = none := by
  have hc : s.closeEye k none true = ((s.setObu (s.obu.unobserve (some e.line))).writeVerdict k none).scan := by
    unfold State.closeEye; rw [he]; rfl
  obtain ⟨h1, h2⟩ := State.writeVerdict_begun (s := s.setObu (s.obu.unobserve (some e.line))) hy hb none
  have hs := State.scan_scanned ((s.setObu (s.obu.unobserve (some e.line))).writeVerdict k none)
  rw [hc]
  exact ⟨hs.records.trans h1, (hs.spares k (State.settled_of_none h2)).1.trans h2⟩

/-- After fires and a forward movement that brings one trial to u_end. -/
theorem State.Fired.eyeEndsInto (h : s.Fired x) (hP : x.ltr.P = s.ltr.P) {d : Nat} (hd : 0 < d) :
    s.EyeEndsInto (x.moveEyes d) d := by
  intro k y e hy ha hk ho he hu hp hE hc hothers misses
  have hy' := h.trials k y hy (by simp [ha])
  have he' : x.obu.eyes[k] = some e := h.eyes ▸ he
  have hdone : x.eyesDone d = [k] := by
    have hn : (x.eyesDone d).Nodup := (x.ttb.oldestFirst_nodup.filter _).filter _
    have hone : [k].Nodup := List.nodup_cons.2 ⟨List.not_mem_nil, List.nodup_nil⟩
    refine List.perm_singleton.1 ((List.perm_ext_iff_of_nodup hn hone).2 fun j => ?_)
    rw [State.mem_eyesDone, List.mem_singleton]
    constructor
    · rintro ⟨-, e', hj, hu'⟩
      refine Decidable.byContradiction fun hne => ?_
      have hlt := hothers j e' hne (h.eyes ▸ hj)
      omega
    · rintro rfl
      exact ⟨by simp [hy'], e, he', hu⟩
  have hmove : x.moveEyes d = (x.advanceEyes d).closeEye k none true := by
    rw [State.moveEyes_forward (by omega), hdone]; rfl
  have hadv : (x.advanceEyes d).obu.eyes[k] = some (e.advance s.ltr.P d) := by
    rw [State.advanceEyes_eyes, he', hP]; rfl
  obtain ⟨hr, hn⟩ := State.closeEye_verdict (s := x.advanceEyes d) hy' (by simp [Trial.begun, ha]) hadv
  obtain ⟨v1, v2, v3, v4⟩ := State.verdictOf_eye (s := x.advanceEyes d) hk ho hadv
  have hm : (e.advance s.ltr.P d).missesNow = misses := by
    rw [EyeObservation.missesNow, EyeObservation.closed_at_end hu hp hE hc, ← List.countP_eq_length_filter]; rfl
  rw [hmove]
  refine ⟨_, hr.trans (congrArg (fun v : Vlg => v.records ++ _) h.vlg), rfl, congrArg Vlg.nextSerial h.vlg, v1, v2, hn, ?_,
    _, v4, hm, rfl, rfl, rfl, rfl⟩
  rw [v3, ← hm]; rfl

end Sys2Proof.Machine
end

section
/-! Counts, window closes and home edges (R5, R7 to R14), and the edges that no block takes up (R27 to R31). -/

namespace Sys2Proof.Machine

variable {s u x : State} {dt : Time} {p q : Level × Level}

/-! ## Counts -/

theorem decoderStep_forward (h : decoderStep p q = .forward) : q = nextPair p := by
  unfold decoderStep at h
  split at h
  · cases h
  · split at h
    · assumption
    · split at h <;> cases h

theorem decoderStep_backward (h : decoderStep p q = .backward) : q = prevPair p := by
  unfold decoderStep at h
  split at h
  · cases h
  · split at h
    · cases h
    · split at h
      · assumption
      · cases h

/-- With no entry and no observation, what an event does to the fire list and to the progress is nothing. -/
theorem State.Unaimed.movement (h : s.Unaimed) (f : FireEntry → EntryStep) (d : Int) : (s.runEntries f).moveEyes d = s := by
  rw [State.runEntries_nil h.1, State.moveEyes_none h.2]

theorem exec_forwardCount (h : s.ltr.ref = some p) :
    exec (.forwardCount dt) s = .next (s.after dt).countForward.kick :=
  timed_due (by simp [State.decoding, h])

theorem exec_backwardCount (h : s.ltr.ref = some p) :
    exec (.backwardCount dt) s = .next (s.after dt).countBackward.kick :=
  timed_due (by simp [State.decoding, h])

/-- Settles O4: the tracker moves, then the entries fire, then the observations move and end. -/
theorem forwardCountMovesH : Obligations.ForwardCountMovesH := by
  intro dt s p q hp hq
  obtain ⟨hl, hk⟩ := State.kept_setLtr_ltr (s.after dt).countForward_kept
  have fired := s.event_fired dt s.ltr.forward fun e => e.onForward s.ltr.forward.H
  have hP : (((s.after dt).setLtr s.ltr.forward).runEntries fun e => e.onForward s.ltr.forward.H).ltr.P = s.ltr.P := by
    rw [State.runEntries_ltr]; rfl
  refine ⟨_, exec_forwardCount hp, hl.trans ?_, hk, fun hu => ?_, fired.eyesMoveInto hP 1, fired.eyeEndsInto hP Nat.one_pos⟩
  · have hR : s.ltr.R - 1 = if s.ltr.R = 0 then 0 else s.ltr.R - 1 := by split <;> omega
    rw [← hR, decoderStep_forward hq, State.after_ltr, Ltr.forward, hp]; rfl
  · rw [hl]
    exact State.Unaimed.movement (s := (s.after dt).setLtr s.ltr.forward) hu _ 1

/-- A backward count's effects before a loss: no entry fires and no observation ends. -/
def State.movedBack (s : State) : State :=
  ((s.setLtr s.ltr.backward).runEntries fun e => e.onBackward s.ltr.H).moveEyes (-1)

theorem State.countBackward_eq (s : State) :
    s.countBackward = if s.ltr.backward.excursionLoss then s.movedBack.lose else s.movedBack := rfl

theorem State.movedBack_sameAims (s : State) : s.SameAims s.movedBack := by
  have e : s.movedBack = ((s.setLtr s.ltr.backward).setFsc (s.fsc.map fun e =>
      if s.ltr.H = e.F then { e with skip := satInc 1 e.skip } else e)).advanceEyes (-1) := by
    rw [State.movedBack, State.moveEyes_backward (by decide)]
    refine congrArg (State.advanceEyes · (-1)) (State.runEntries_keep _ fun e => ?_)
    unfold FireEntry.onBackward; split <;> rfl
  rw [e]
  refine ⟨rfl, ?_, fun k => ?_, rfl⟩
  · change ((s.fsc.map _).map FireEntry.slot) = _
    rw [List.map_map]
    refine List.map_congr_left fun e _ => ?_
    rw [Function.comp_apply, apply_ite FireEntry.slot]; exact ite_self _
  · rw [State.advanceEyes_eyes, Option.map_eq_none_iff]; rfl

/-- Settles O5: a backward count moves everything back by one, and is a loss when the excursion reaches P/2 while SYNCED. -/
theorem backwardCountMovesH : Obligations.BackwardCountMovesH := by
  intro dt s p q hp hq r lost
  have hr : s.ltr.backward.R = r := by
    change min 65535 (s.ltr.R + 1) = if s.ltr.R < 65535 then s.ltr.R + 1 else 65535
    split <;> omega
  have hlost : s.ltr.backward.excursionLoss = true ↔ lost := by
    rw [Ltr.excursionLoss, hr, Bool.and_eq_true, decide_eq_true_eq, decide_eq_true_eq]; rfl
  have href : s.ltr.backward.ref = some q := by rw [decoderStep_backward hq, Ltr.backward, hp]; rfl
  obtain ⟨hl, hk⟩ := State.kept_setLtr_ltr (s.after dt).countBackward_kept
  have hu := (s.after dt).countBackward_eq
  rw [State.after_ltr] at hl hu
  refine ⟨_, exec_backwardCount hp, ?_⟩
  by_cases h : s.ltr.backward.excursionLoss = true
  · rw [if_pos h] at hl hu
    rw [hl]
    refine ⟨rfl, rfl, hr, href, fun _ => ⟨rfl, ?_, ?_, fun tied => ?_⟩, fun hn => absurd (hlost.1 h) hn, rfl, hl ▸ hk,
      fun hn => absurd (hlost.1 h) hn⟩
    · rw [hu]; exact State.lose_fsc _
    · rw [hu]; exact State.lose_track _
    · have same := (s.after dt).movedBack_sameAims
      rw [hu]; exact State.lose_aborts ⟨same.ttb, same.slots, same.eyes, same.records⟩ tied.aimed
  · rw [if_neg h] at hl hu
    rw [hl]
    have fired := s.event_fired dt s.ltr.backward fun e => e.onBackward s.ltr.H
    have hP : (((s.after dt).setLtr s.ltr.backward).runEntries fun e => e.onBackward s.ltr.H).ltr.P = s.ltr.P := by
      rw [State.runEntries_ltr]; rfl
    refine ⟨rfl, rfl, hr, href, fun hl => absurd (hlost.2 hl) h, fun _ => ⟨rfl, ?_⟩, rfl, hl ▸ hk, fun _ ha => ?_⟩
    · rw [hu]; exact fired.eyesMoveInto hP (-1)
    · rw [hu]; exact State.Unaimed.movement (s := (s.after dt).setLtr s.ltr.backward) ha _ (-1)

/-! ## Windows -/

theorem State.abortPositions_unaimed (h : s.Unaimed) (r : Reason) : s.abortPositions r = s := by
  have hf : s.setFsc [] = s := by
    obtain ⟨T, ltr, lmx, zmr, ttb, fsc, cdu, tru, obu, dlk, vlg, hlk, choices, pending⟩ := s
    obtain ⟨rfl, -⟩ := h; rfl
  have hs : s.ttb.oldestFirst.filter (fun k => s.fsc.any fun e => decide (e.slot = k)) = [] := by simp [h.1]
  have he : s.eyeSlots = [] := by simp [State.eyeSlots, h.2]
  simp [State.abortPositions, hf, hs, he]

theorem Dlk.window_idle {d : Dlk} (h : d.state ≠ .owned) (t : Time) (v : Nat) : d.window t v = d := by
  unfold Dlk.window; split
  · exact absurd (by assumption) h
  · rfl

/-- The window's direction, as R9 states it. -/
theorem Ltr.closeWindow_dir (l : Ltr) : l.closeWindow.dir = if l.n < 0 then .reverse else .forward := by
  change (if 0 ≤ l.n then LoopDir.forward else .reverse) = _
  by_cases h : l.n < 0
  · rw [if_pos h, if_neg (by omega)]
  · rw [if_neg h, if_pos (by omega)]

/-- What the drive link records comes after the other blocks' part of a window close. -/
theorem State.closeWindow_reverse (h : s.ltr.closeWindow.dir = .reverse) :
    ∃ d, s.closeWindow = ((s.setLtr s.ltr.closeWindow).abortPositions .reverse).setDlk d := by
  simp only [State.closeWindow, State.setLtr_ltr, h]
  exact ⟨_, rfl⟩

/-- With nothing aimed and the link not OWNED a window close moves the tracker alone. -/
theorem State.closeWindow_quiet (h : s.Unaimed) (ho : s.dlk.state ≠ .owned) : s.closeWindow = s.setLtr s.ltr.closeWindow := by
  have h' : State.Unaimed (s.setLtr s.ltr.closeWindow) := h
  have hw : ∀ t v, (s.setLtr s.ltr.closeWindow).dlk.window t v = s.dlk := Dlk.window_idle ho
  unfold State.closeWindow
  simp only [State.setLtr_ltr]
  cases s.ltr.closeWindow.dir
  · simp only [State.runEntries_nil h'.1, hw]; rfl
  · simp only [State.abortPositions_unaimed h', hw]; rfl

/-- Settles O7: FSC and OBU act on the closed window by its direction, and then the drive link records it. -/
theorem windowCloseSetsV : Obligations.WindowCloseSetsV := by
  intro dt s hT
  have hdue : exec (.windowClose dt) s = .next (s.after dt).closeWindow.kick :=
    timed_due (due := fun s => decide (s.T = s.ltr.nextClose)) (decide_eq_true hT)
  obtain ⟨hl, hk⟩ := State.kept_setLtr_ltr (s.after dt).closeWindow_kept
  have hd := s.ltr.closeWindow_dir
  refine ⟨_, hdue, hl.trans ?_, hk, fun hn tied => ?_, fun hu ho => ?_⟩
  · rw [← hd]; rfl
  · have same : s.SameAims ((s.after dt).setLtr s.ltr.closeWindow) := ⟨rfl, rfl, fun _ => .rfl, rfl⟩
    obtain ⟨d, e⟩ := State.closeWindow_reverse (s := s.after dt) (hd.trans (if_pos hn))
    rw [e]
    exact same.aborts (State.abortPositions_aborts (same.aimed tied.aimed))
  · rw [hl]; exact State.closeWindow_quiet (s := s.after dt) hu ho

/-! ## Accepted edges -/

variable {l : LineNo} {fn : LineFn} {a : Bool}

theorem exec_acceptedEdge (h : s.EdgeReady l fn a) :
    exec (.acceptedEdge dt l) s = .next ((s.after dt).acceptEdge l).kick := by
  obtain ⟨hs, hg, -⟩ := h
  refine timed_due (due := fun s => (s.line l).ripe) (effect := fun s => s.acceptEdge l) ?_
  change (s.line l).ripe = true
  simp [FieldLine.ripe, hs, hg]

/-- The line after its edge is active exactly when the edge goes to the active level. -/
theorem State.EdgeReady.active (h : s.EdgeReady l fn a) : (s.line l).accept.active = a := by
  obtain ⟨-, -, -, ha⟩ := h
  rw [Bool.eq_iff_iff, ← ha]; exact decide_eq_true_iff

/-- An edge of the HOME line is told to the tracker when it goes active after a FORWARD window (R10). -/
theorem State.EdgeReady.home (h : s.EdgeReady l .home a) (dt : Time) :
    (s.after dt).acceptEdge l = if a = true ∧ s.ltr.dir = .forward then (s.edged dt l).homeEdge else s.edged dt l := by
  have hf : (s.line l).accept.cfg.fn = .home := h.2.2.1
  have e : (s.after dt).acceptEdge l = if (s.line l).accept.active && decide (s.ltr.dir = .forward)
      then (s.edged dt l).homeEdge else s.edged dt l := by
    simp only [State.acceptEdge, show ((s.after dt).line l).accept.cfg.fn = .home from hf]; rfl
  rw [e, h.active]; simp

end Sys2Proof.Machine
end

section
/-! Home edges (R10 to R14) and the samples of a line (R27, R30). -/

namespace Sys2Proof.Machine

variable {s u : State} {dt : Time} {l : LineNo} {fn : LineFn} {a : Bool}

/-! ## Home edges -/

/-- A home edge that is told to the tracker. -/
theorem State.EdgeReady.homeEdge (h : s.EdgeReady l .home true) (hd : s.ltr.dir = .forward) (dt : Time) :
    exec (.acceptedEdge dt l) s = .next (s.edged dt l).homeEdge.kick := by
  rw [exec_acceptedEdge h, h.home, if_pos ⟨rfl, hd⟩]

theorem State.homeEdge_sync (h : s.ltr.trust ≠ .synced) : s.homeEdge = (s.setLtr s.ltr.sync).trackChanged := if_neg h

theorem State.homeEdge_correct (h : s.ltr.trust = .synced) (hd : s.ltr.homeOffset.natAbs ≤ s.ltr.HT) :
    s.homeEdge = ((s.setLtr s.ltr.correct).runEntries fun e => e.onCorrection s.ltr s.ltr.homeOffset).moveEyes
      (-s.ltr.homeOffset) := by
  unfold State.homeEdge; rw [if_pos h]; exact if_pos hd

theorem State.homeEdge_lose (h : s.ltr.trust = .synced) (hd : s.ltr.HT < s.ltr.homeOffset.natAbs) :
    s.homeEdge = (s.setLtr s.ltr.missHome).lose := by
  unfold State.homeEdge; rw [if_pos h]; exact if_neg (by omega)

/-- A change of tracker state sets the TRACK flag (R16, R187). -/
theorem State.trackChanged_track (s : State) : s.trackChanged.hlk.flags.track = true := by
  rw [State.trackChanged, (State.scan_scanned _).hlk]; exact s.hlk.raise_track_self

/-- Settles O9: by the tracker's trust and the offset, a sync, a correction or a loss. -/
theorem homeEdgeSyncsCorrectsOrLoses : Obligations.HomeEdgeSyncsCorrectsOrLoses := by
  intro dt s l hready d e
  have hkept := e.homeEdge_kept
  have hLtr : e.ltr = s.ltr := rfl
  have hd : s.ltr.homeOffset = d := rfl
  refine ⟨fun hr => ?_, fun hf ht => ?_, fun hf ht hle => ?_, fun hf ht hlt => ?_⟩
  · rw [exec_acceptedEdge hready, hready.home, if_neg (by simp [hr])]
  · rw [hLtr, if_neg ht] at hkept
    obtain ⟨hl, hk⟩ := State.kept_setLtr_ltr hkept
    have hu : e.homeEdge = (e.setLtr s.ltr.sync).trackChanged := State.homeEdge_sync ht
    refine ⟨_, hready.homeEdge hf dt, hl, hk, ?_⟩
    rw [hu]; exact State.trackChanged_track _
  · rw [hLtr, if_pos ht, hd, if_pos hle] at hkept
    obtain ⟨hl, hk⟩ := State.kept_setLtr_ltr hkept
    have hu := State.homeEdge_correct (s := e) ht hle
    have fired : s.Fired ((e.setLtr s.ltr.correct).runEntries fun x => x.onCorrection s.ltr d) := by
      refine State.Fired.trans ?_ (State.runEntries_fired _ _)
      exact .of_eq rfl rfl rfl
    have hP : ((e.setLtr s.ltr.correct).runEntries fun x => x.onCorrection s.ltr d).ltr.P = s.ltr.P := by
      rw [State.runEntries_ltr]; rfl
    refine ⟨_, hready.homeEdge hf dt, hl, hk, fun ha => ?_, ?_, fun hneg => ?_⟩
    · rw [hl, hu]; exact State.Unaimed.movement (s := e.setLtr s.ltr.correct) ha _ _
    · rw [hu]; exact fired.eyesMoveInto hP (-d)
    · rw [hu, hLtr, hd, show -d = (d.natAbs : Int) by omega]
      exact fired.eyeEndsInto hP (by omega)
  · rw [hLtr, if_pos ht, hd, if_neg (by omega)] at hkept
    obtain ⟨hl, hk⟩ := State.kept_setLtr_ltr hkept
    have hu := State.homeEdge_lose (s := e) ht hlt
    refine ⟨_, hready.homeEdge hf dt, hl, hk, ?_, ?_, fun tied => ?_⟩
    · rw [hu]; exact State.lose_fsc _
    · rw [hu]; exact State.lose_track _
    · rw [hu]; exact State.lose_aborts ⟨rfl, rfl, fun _ => .rfl, rfl⟩ tied.aimed

/-! ## Samples of a line -/

/-- A sample that is no accepted edge is counted by the line's filter (R27). -/
theorem exec_lineSample {v : Level} (h : (s.line l).isEdge v = false) :
    exec (.lineSample dt l v) s = .next ((s.after dt).setLine l ((s.line l).sample v)).kick :=
  timed_due (due := fun s => !(s.line l).isEdge v) (effect := fun s => s.setLine l ((s.line l).sample v))
    (congrArg (!·) h)

/-- A line that is not ripe has no accepted edge (R27). -/
theorem FieldLine.isEdge_of_unripe {x : FieldLine} (h : x.started = false ∨ x.c < x.cfg.g) (v : Level) : x.isEdge v = false := by
  have hr : x.ripe = false := by
    unfold FieldLine.ripe
    rcases h with h | h
    · rw [h, Bool.false_and]
    · rw [decide_eq_false (Nat.not_le.2 h), Bool.and_false]
  rw [FieldLine.isEdge, hr, Bool.false_and]

theorem FieldLine.isEdge_accepted (x : FieldLine) : x.isEdge x.accepted = false := by
  rw [FieldLine.isEdge, decide_eq_false (not_not_intro rfl), Bool.and_false]

theorem Level.other_ne (v : Level) : v.other ≠ v := by cases v <;> decide

/-- An edge of a line whose function has no consumer for it changes the line alone. -/
theorem State.EdgeReady.untaken (h : s.EdgeReady l fn a) (hn : fn = .unused ∨ fn = .general ∨ fn = .linkRequest
    ∨ (a = false ∧ (fn = .home ∨ fn = .stop ∨ fn = .linkBusy)) ∨ (fn = .eye ∧ s.obu.observers[l] = none)) (dt : Time) :
    (s.after dt).acceptEdge l = s.edged dt l := by
  have hf : ((s.after dt).line l).accept.cfg.fn = fn := h.2.2.1
  have ha : ((s.after dt).line l).accept.active = a := h.active
  simp only [State.acceptEdge, hf, ha]
  rcases hn with rfl | rfl | rfl | ⟨rfl, rfl | rfl | rfl⟩ | ⟨rfl, ho⟩
  case inr.inr.inr.inr =>
    have ho' : ((s.after dt).setLine l ((s.after dt).line l).accept).obu.observers[l] = none := ho
    simp only [State.eyeEdge, ho']; rfl
  all_goals rfl

/-- Settles O13: by whether the line has started, and whether the sample differs. -/
theorem lineSamplesAndUntakenEdges : Obligations.LineSamplesAndUntakenEdges := by
  refine ⟨fun dt s l v h => ?_, fun dt s l h => ?_, fun dt s l h hc => ?_, fun dt s l fn a h hn => ?_⟩
  · rw [exec_lineSample (FieldLine.isEdge_of_unripe (.inl h) v), FieldLine.sample, if_neg (by simp [h])]
  · rw [exec_lineSample (s.line l).isEdge_accepted, FieldLine.sample, if_pos h, if_pos rfl]
  · rw [exec_lineSample (FieldLine.isEdge_of_unripe (.inr hc) _), FieldLine.sample, if_pos h,
      if_neg (Level.other_ne _)]
  · rw [exec_acceptedEdge h, h.untaken hn]

end Sys2Proof.Machine
end

section
/-! The next pass at a guard (R18): its four steps in the integers, and the bounds on its distance ahead. -/

namespace Sys2Proof.Machine

/-- A difference taken modulo M in the natural numbers, M added to keep it from going below 0. -/
theorem mod_of_sub {a b m : Nat} (h : b ≤ a + m) : (((a + m - b) % m : Nat) : Int) = ((a : Int) - b) % (m : Nat) := by
  have he : ((a + m - b : Nat) : Int) = a - b + m := by omega
  rw [Int.natCast_emod, he, Int.add_emod_right]

/-- The quotient rounded up overshoots by less than one divisor. -/
theorem ceilDiv_mul {a p : Nat} (h : 0 < p) : a ≤ ceilDiv a p * p ∧ ceilDiv a p * p < a + p := by
  have hd := Nat.div_add_mod (a + p - 1) p
  have hm := Nat.mod_lt (a + p - 1) h
  rw [ceilDiv, Nat.mul_comm]
  omega

/-- The four steps of R18 in integers: `Q` from the home position `X`, the base `b`, the rounded `r` and the pitches
`c = N·n + m`, each with the laps taken off it. The distance from `H` differs from the guard and the rounding by whole laps. -/
theorem pass_distance {Q H X g e b r c L N P n m q₁ q₂ q₃ : Int} (hb : b = X - H - L * q₁) (hr : r = g - b - L * q₂)
    (hQ : Q = X + m * P - L * q₃) (hc : c = N * n + m) (he : c * P = r + e) (hL : L = N * P) :
    Q - H - (g + e) = L * (q₁ - q₃ - n - q₂) := by
  have hcP : c * P = L * n + m * P := by rw [hc, hL, Int.add_mul, Int.mul_right_comm]
  rw [Int.mul_sub, Int.mul_sub, Int.mul_sub]
  omega

/-- The distance ahead of the next pass comes to the guard and what the rounding up to a whole pitch adds. -/
theorem Ltr.nextPass_ahead {l : Ltr} {x g : Nat} (hH : l.H < l.L) (hP : 0 < l.P) :
    ∃ e : Nat, e < l.P ∧ (((l.nextPass x g).2 : Int) - l.H) % (l.L : Nat) = ((g : Int) + e) % (l.L : Nat) := by
  let base := l.ahead x
  let r := (g + l.L - base) % l.L
  let c := ceilDiv r l.P
  have hbase : (base : Int) = ((x : Int) - l.H) % (l.L : Nat) := mod_of_sub (by omega)
  have hr : (r : Int) = ((g : Int) - base) % (l.L : Nat) :=
    mod_of_sub (by have := Nat.mod_lt (x + l.L - l.H) (show 0 < l.L by omega); change base < l.L at this; omega)
  have hc : (c : Int) = l.N * (c / l.N : Nat) + (c % l.N : Nat) := by exact_mod_cast (Nat.div_add_mod c l.N).symm
  obtain ⟨h1, h2⟩ := ceilDiv_mul (a := r) hP
  obtain ⟨e, he⟩ := Nat.exists_eq_add_of_le h1
  have he' : (c : Int) * l.P = r + e := by exact_mod_cast he
  refine ⟨e, by omega, ?_⟩
  have hq : (((l.nextPass x g).2 : Nat) : Int) = ((x : Int) + (c % l.N : Nat) * l.P) % (l.L : Nat) := by
    change (((x + c % l.N * l.P) % l.L : Nat) : Int) = _
    rw [Int.natCast_emod, Int.natCast_add, Int.natCast_mul]
  have hL : ((l.L : Nat) : Int) = l.N * l.P := Int.natCast_mul _ _
  rw [Int.emod_def] at hbase hr hq
  exact Int.emod_eq_emod_iff_emod_sub_eq_zero.2 (Int.emod_eq_zero_of_dvd ⟨_, pass_distance hbase hr hq hc he' hL⟩)

/-- Settles O8: with a guard of at most 15 pitches the guard and the rounding stay below a lap. -/
theorem nextPassWithinOnePitch : Obligations.NextPassWithinOnePitch := by
  intro l x g hN hP (hH : l.H < l.L) (hx : x < l.L) hg k q base r
  have hL : 16 * l.P ≤ l.L := Nat.mul_le_mul_right _ hN
  have hbase : ((l.ahead x : Nat) : Int) = base := mod_of_sub (by omega)
  have hlt : l.ahead x < l.L := Nat.mod_lt _ (by omega)
  have hr : (((g + l.L - l.ahead x) % l.L : Nat) : Int) = r := by rw [mod_of_sub (by omega), hbase]; rfl
  obtain ⟨e, he, hD⟩ := l.nextPass_ahead (x := x) (g := g) hH (by omega)
  rw [Int.emod_eq_of_lt (a := (g : Int) + e) (by omega) (by omega)] at hD
  refine ⟨?_, Nat.mod_lt _ (by omega), rfl, ?_, ?_⟩
  · change ((ceilDiv ((g + l.L - l.ahead x) % l.L) l.P % l.N : Nat) : Int) = _
    have hsub : (((g + l.L - l.ahead x) % l.L + l.P - 1 : Nat) : Int) = ((g + l.L - l.ahead x) % l.L : Nat) + l.P - 1 := by
      generalize (g + l.L - l.ahead x) % l.L = a; omega
    rw [ceilDiv, Int.natCast_emod, Int.natCast_ediv, hsub, hr]
  · exact hD ▸ by omega
  · exact hD ▸ by omega

end Sys2Proof.Machine
end

section
/-! The two resets (R19, R191, R192) and what every invariant says of the state they leave. -/

namespace Sys2Proof.Machine

/-! ## The reset values -/

/-- Every block at its reset values, with what a SOFT reset lets go on: T, the two schedules, the period's scan and the line
rate. -/
def State.resetWith (now close start : Time) (begun : Bool) (strap : Fin 4) (c : Nat) (q : List Instr) : State :=
  { State.reset with T := now, ltr := { Ltr.reset with nextClose := close }, cdu := { Cdu.reset with periodStart := start },
                     tru := { Tru.reset with scanBegun := begun }, hlk := { Hlk.reset with strap := strap },
                     choices := c, pending := q }

theorem State.reset_eq : State.reset = .resetWith 0 4096 0 false 0 0 [] := rfl

theorem exec_powerReset (b1 b0 : Level) (s : State) :
    exec (.powerReset b1 b0) s = .next (.resetWith 0 4096 0 false (strapCode b1 b0) s.choices s.pending) := rfl

theorem State.softReset_eq (s : State) :
    s.softReset = .resetWith s.T (nextWindow s.T) s.cdu.periodStart s.tru.scanBegun s.hlk.strap s.choices s.pending := rfl

theorem replicate_get {α : Type} {n : Nat} (a : α) (k : Fin n) : (Vector.replicate n a)[k] = a := by simp

section

variable (now close start : Time) (begun : Bool) (strap : Fin 4) (c : Nat) (q : List Instr)

theorem State.resetWith_line (l : LineNo) : (State.resetWith now close start begun strap c q).line l = .reset :=
  replicate_get _ l

theorem State.resetWith_trial (k : Slot) : (State.resetWith now close start begun strap c q).trial k = none :=
  replicate_get _ k

theorem State.resetWith_channel (n : Chan) : (State.resetWith now close start begun strap c q).channel n = .reset :=
  replicate_get _ n

theorem State.resetWith_resetValues : (State.resetWith now close start begun strap c q).ResetValues := by
  have hline := State.resetWith_line now close start begun strap c q
  refine ⟨⟨close, rfl⟩, fun l => ⟨?_, ?_, ?_, ?_⟩, fun f => ?_, rfl, rfl, rfl, rfl, replicate_get _, replicate_get _,
    replicate_get _, replicate_get _, rfl, rfl, replicate_get _, replicate_get _, rfl, rfl, replicate_get _, rfl, rfl,
    replicate_get _, rfl, rfl, replicate_get _, replicate_get _,
    fun k => ⟨replicate_get _ k, replicate_get _ k, replicate_get _ k, replicate_get _ k⟩,
    rfl, rfl, rfl, rfl, rfl, rfl, rfl, rfl, rfl, rfl, rfl, rfl, rfl, rfl, rfl, rfl, rfl, rfl, rfl, rfl, rfl, rfl, rfl, rfl,
    rfl, rfl, rfl, rfl, fun _ _ => rfl, fun _ _ _ => ⟨rfl, rfl, rfl⟩⟩
  · rw [hline]; rfl
  · rw [hline]; rfl
  · rw [hline]; rfl
  · rw [State.linePin, hline]; rfl
  · cases f <;> rfl

/-- The transmitter finds nothing to take after a reset. -/
theorem State.resetWith_kick :
    (State.resetWith now close start begun strap c q).kick = .resetWith now close start begun strap c q := rfl

end

/-- The next multiple of 4,096 after T lies 1 to 4,096 µs ahead, also where T wraps. -/
theorem nextWindow_ahead (t : Time) : 1 ≤ (nextWindow t - t).toNat ∧ (nextWindow t - t).toNat ≤ 4096 := by
  have ht := t.isLt
  rw [BitVec.toNat_sub, nextWindow, BitVec.toNat_ofNat]
  omega

/-- Settles O2: a POWER reset sets T and its schedules to their start, and samples the straps. -/
theorem powerResetValues : Obligations.PowerResetValues := by
  intro b1 b0 s
  refine ⟨_, exec_powerReset b1 b0 s, State.resetWith_resetValues .., rfl, rfl, rfl, rfl, rfl, ?_, ?_⟩
  · change (strapCode b1 b0).val = _
    cases b1 <;> cases b0 <;> rfl
  · change baud (strapCode b1 b0) = _
    cases b1 <;> cases b0 <;> rfl

/-- Settles O3: a SOFT reset is due once the Reset reply has been sent, and leaves the transmitter nothing to take. -/
theorem softResetValues : Obligations.SoftResetValues := by
  intro dt s h
  have e : exec (.softReset dt) s = .next (s.after dt).softReset.kick :=
    timed_due (due := fun s => decide (s.hlk.resetPhase = .due)) (decide_eq_true h)
  rw [State.softReset_eq, State.resetWith_kick] at e
  obtain ⟨h1, h2⟩ := nextWindow_ahead (s.after dt).T
  exact ⟨_, e, State.resetWith_resetValues .., rfl, nextWindow_multiple _, h1, h2, rfl, rfl, rfl, rfl, rfl⟩

/-! ## The invariants at reset -/

section

variable (now start : Time) {close : Time} (begun : Bool) (strap : Fin 4) (c : Nat) (q : List Instr)

theorem Lmx.reset_sound : Lmx.reset.Sound := by
  intro l f hf
  have hl : Lmx.reset.lines[l] = .reset := replicate_get _ l
  rw [hl]
  cases f <;> simp [Lmx.holderOf, Lmx.reset, FieldLine.reset, LineConfig.reset, LineFn.single] at hf ⊢

theorem Zmr.reset_sound : Zmr.reset.Sound := by
  refine ⟨⟨by decide, by decide⟩, by decide, fun n r h => ?_, fun k r h => ?_, fun k r h => ?_⟩
  all_goals exact absurd ((replicate_get none _).symm.trans h) (by simp)

theorem Ttb.reset_sound : Ttb.reset.Sound := by
  have hs : ∀ k : Slot, Ttb.reset.slots[k] = none := replicate_get _
  have hc : ∀ k : Chan, Ttb.reset.channelHolder[k] = none := replicate_get _
  have hl : ∀ k : LineNo, Ttb.reset.lineHolder[k] = none := replicate_get _
  refine ⟨fun j k t u h => ?_, fun k t h => ?_, fun n k => ?_, fun l k => ?_⟩
  · simp [hs] at h
  · simp [hs] at h
  · simp [hs, hc]
  · simp [hs, hl]

/-- No block holds a record of any trial. -/
theorem State.resetWith_tied : (State.resetWith now close start begun strap c q).Tied := by
  have ht := State.resetWith_trial now close start begun strap c q
  have hc := State.resetWith_channel now close start begun strap c q
  refine ⟨by simp [State.resetWith, State.reset], .nil, fun k h => absurd (replicate_get none k) h,
    fun k => ⟨fun h => absurd (replicate_get none k) h, by simp [ht]⟩, by simp [State.resetWith, State.reset, Dlk.reset],
    by simp [ht], by simp [hc, Channel.reset], by simp [hc, Channel.reset], fun k h => absurd (replicate_get none k) h⟩

theorem State.resetWith_reserved : (State.resetWith now close start begun strap c q).Reserved := by
  have h : (State.resetWith now close start begun strap c q).ttb.begunCount = 0 := by
    refine List.countP_eq_zero.2 fun k _ => ?_
    rw [show (State.resetWith now close start begun strap c q).ttb.slots[k] = none from replicate_get none k]
    simp
  exact ⟨h.symm, Nat.zero_le _⟩

end

/-- Settles O53: every invariant holds where each block has its reset values, whatever the straps. -/
theorem invariantsHoldAtReset : Obligations.InvariantsHoldAtReset := by
  intro u b1 b0 s h
  obtain ⟨strap, c, q, rfl⟩ : ∃ strap c q, u = .resetWith 0 4096 0 false strap c q := by
    rcases h with rfl | h
    · exact ⟨0, 0, [], State.reset_eq⟩
    · rw [exec_powerReset] at h
      injection h with h
      exact ⟨_, _, _, h.symm⟩
  have hltr : Ltr.Sound { Ltr.reset with nextClose := 4096 } := Ltr.reset_sound rfl
  have htied := State.resetWith_tied 0 0 (close := 4096) false strap c q
  refine ⟨hltr, Lmx.reset_sound, Zmr.reset_sound, Ttb.reset_sound, fun i hi => absurd hi (Nat.not_lt_zero i),
    State.resetWith_reserved 0 0 false strap c q, fun hh => Bool.noConfusion hh, rfl,
    ⟨Nat.zero_le _, Nat.zero_le _, Nat.zero_le _⟩, htied, hltr, Ttb.reset_sound, htied, fun e he => absurd he List.not_mem_nil⟩

end Sys2Proof.Machine
end

section
/-! SetLoop (R1 to R3, R16). -/

namespace Sys2Proof.Machine

variable {s u : State} {dt : Time} {f : Frame} {rest : List Frame}

/-! ## Serving -/

/-- A block's reply takes its place and then the transmitter its turn. -/
theorem State.serving_reply (payload : List Byte) :
    ((s.serving dt rest).answer f (.reply u payload)).kick = u.replied f payload := rfl

/-- Whether some trial of a kind has begun, by its record. -/
theorem Ttb.anyBegun_iff (p : Trial → Bool) :
    s.ttb.anyBegun p = true ↔ ∃ k t, s.trial k = some t ∧ t.state ≠ .loaded ∧ p t = true := by
  have hm : ∀ k : Slot, k ∈ allSlots := by decide
  simp only [Ttb.anyBegun, List.any_eq_true]
  constructor
  · rintro ⟨k, -, h⟩
    change (match s.trial k with | some t => t.begun && p t | none => false) = true at h
    cases ht : s.trial k with
    | none => simp [ht] at h
    | some t => exact ⟨k, t, ht, by simpa [ht, Trial.begun] using h⟩
  · rintro ⟨k, t, ht, hl, hp⟩
    refine ⟨k, hm k, ?_⟩
    rw [show s.ttb.slots[k] = some t from ht]
    simp [Trial.begun, hl, hp]

/-! ## SetLoop -/

/-- SetLoop is refused for its geometry first, and then for a trial that has begun (R2). -/
theorem serveSetLoop_eq {b : List Byte} (hn : 16 ≤ field b 0 2 ∧ field b 0 2 ≤ 1024)
    (hp : 64 ≤ field b 2 2 ∧ field b 2 2 ≤ 8192) :
    serveSetLoop b s = if s.ttb.anyBegun (fun _ => true) = true then .refused .busy
      else .reply (s.applySetLoop (field b 0 2) (field b 2 2) (field b 4 2))
        (s.applySetLoop (field b 0 2) (field b 2 2) (field b 4 2)).setLoopPayload := by
  unfold serveSetLoop
  dsimp only
  rw [if_neg (not_not_intro hn), if_neg (not_not_intro hp)]

theorem serveSetLoop_badValue {b : List Byte}
    (h : ¬((16 ≤ field b 0 2 ∧ field b 0 2 ≤ 1024) ∧ 64 ≤ field b 2 2 ∧ field b 2 2 ≤ 8192)) :
    serveSetLoop b s = .refused .badValue := by
  unfold serveSetLoop
  dsimp only
  by_cases hn : 16 ≤ field b 0 2 ∧ field b 0 2 ≤ 1024
  · rw [if_neg (not_not_intro hn), if_pos fun hp => h ⟨hn, hp⟩]
  · rw [if_pos hn]

/-- An accepted SetLoop moves the tracker, and nothing else that is kept. -/
theorem State.applySetLoop_kept (s : State) (n p ht : Nat) :
    (s.applySetLoop n p ht).kept = (s.setLtr (s.ltr.setLoop n p ht)).kept := by
  unfold State.applySetLoop
  rw [State.scan_kept, apply_ite State.kept, State.trackChanged, State.scan_kept, State.raise_kept, ite_self]

/-- It publishes the change of a tracker that was not UNSYNCED, and sets no other flag (R16). -/
theorem State.applySetLoop_flags (s : State) (n p ht : Nat) :
    (s.ltr.trust ≠ .unsynced → (s.applySetLoop n p ht).hlk.flags.track = true)
      ∧ (s.ltr.trust = .unsynced → (s.applySetLoop n p ht).hlk = s.hlk) := by
  unfold State.applySetLoop
  dsimp only
  rw [(State.scan_scanned _).hlk]
  constructor
  · intro h; rw [if_neg h]; exact State.trackChanged_track _
  · intro h; rw [if_pos h]; rfl

/-- Settles O40: the three checks in their order, and then the acceptance. -/
theorem setLoopTakesTheGeometry : Obligations.SetLoopTakesTheGeometry := by
  intro dt s f rest hserves hkind hlen n p ht legal
  have hexec : exec (.setLoop dt) s = .next ((s.serving dt rest).answer f (serveSetLoop f.payload (s.serving dt rest))).kick :=
    serve_serves hserves hkind hlen
  have hany := Ttb.anyBegun_iff (s := s.serving dt rest) fun _ => true
  refine ⟨fun h => ?_, fun h hb => ?_, fun h hl => ?_⟩
  · rw [hexec, serveSetLoop_badValue h]; rfl
  · obtain ⟨k, t, hk, hs⟩ := hb
    rw [hexec, serveSetLoop_eq h.1 h.2, if_pos (hany.2 ⟨k, t, hk, hs, rfl⟩)]; rfl
  · have hnone : ¬(s.serving dt rest).ttb.anyBegun (fun _ => true) = true := fun hb => by
      obtain ⟨k, t, hk, hs, -⟩ := hany.1 hb
      exact hs (hl k t hk)
    obtain ⟨hltr, hkept⟩ := State.kept_setLtr_ltr ((s.serving dt rest).applySetLoop_kept n p ht)
    obtain ⟨f1, f2⟩ := (s.serving dt rest).applySetLoop_flags n p ht
    refine ⟨(s.serving dt rest).applySetLoop n p ht, ?_, hltr, hkept, f1, fun h => (congrArg Hlk.flags (f2 h)).trans rfl⟩
    rw [hexec, serveSetLoop_eq h.1 h.2, if_neg hnone, State.serving_reply, State.setLoopPayload, hltr]
    rfl

end Sys2Proof.Machine
end

section
/-! SetLine (R15, R21, R25, R30, R31, R34 to R36): its fields, its refusals, and what an accepted one does. -/

namespace Sys2Proof.Machine

variable {s u : State} {dt : Time} {f : Frame} {rest : List Frame} {l : LineNo} {cfg : LineConfig}

/-! ## The fields (R21, R34, R185) -/

theorem finOf_val {n : Nat} (k : Fin n) : finOf n k.val = some k := dif_pos k.isLt

theorem finOf_lt {n x : Nat} {k : Fin n} (h : finOf n x = some k) : x < n := by
  unfold finOf at h; split at h
  · assumption
  · cases h

theorem lineDirOf_lt {x : Nat} {d : LineDir} (h : lineDirOf x = some d) : x < 2 := by
  unfold lineDirOf at h; split at h
  · decide
  · decide
  · cases h

theorem levelOf_lt {x : Nat} {v : Level} (h : levelOf x = some v) : x < 2 := by
  unfold levelOf at h; split at h
  · decide
  · decide
  · cases h

theorem boolOf_lt {x : Nat} {b : Bool} (h : boolOf x = some b) : x < 2 := by
  unfold boolOf at h; split at h
  · decide
  · decide
  · cases h

theorem lineFnOf_lt {x : Nat} {fn : LineFn} (h : lineFnOf x = some fn) : x < 7 := by
  unfold lineFnOf at h; split at h
  case h_8 => cases h
  all_goals decide

/-- Only a line number and codes that name something are read as a configuration. -/
theorem lineConfigOf_lt {b : List Byte} {x : LineNo × LineConfig} (h : lineConfigOf b = some x) :
    field b 0 1 < 48 ∧ field b 1 1 < 2 ∧ field b 2 1 < 2 ∧ field b 3 1 < 2 ∧ field b 4 1 < 2 ∧ field b 5 1 < 2
      ∧ field b 7 1 < 7 := by
  unfold lineConfigOf at h
  split at h
  · rename_i h1 h2 h3 h4 h5 h6 h7
    exact ⟨finOf_lt h1, lineDirOf_lt h2, levelOf_lt h3, levelOf_lt h4, boolOf_lt h5, levelOf_lt h6, lineFnOf_lt h7⟩
  · cases h

/-- The bytes of a configuration (R183). -/
def lineConfigBytes (l : LineNo) (cfg : LineConfig) : List Byte :=
  [BitVec.ofNat 8 l.val, BitVec.ofNat 8 cfg.dir.code, BitVec.ofNat 8 cfg.output.code, BitVec.ofNat 8 cfg.safe.code,
   BitVec.ofNat 8 (boolCode cfg.pullUp), BitVec.ofNat 8 cfg.active.code, BitVec.ofNat 8 cfg.g, BitVec.ofNat 8 cfg.fn.code]

theorem lineDirOf_code (d : LineDir) : lineDirOf (BitVec.ofNat 8 d.code).toNat = some d := by cases d <;> rfl

theorem levelOf_code (v : Level) : levelOf (BitVec.ofNat 8 v.code).toNat = some v := by cases v <;> rfl

theorem boolOf_code (b : Bool) : boolOf (BitVec.ofNat 8 (boolCode b)).toNat = some b := by cases b <;> rfl

theorem lineFnOf_code (fn : LineFn) : lineFnOf (BitVec.ofNat 8 fn.code).toNat = some fn := by cases fn <;> rfl

theorem lineConfigOf_bytes (l : LineNo) (hg : cfg.g < 256) : lineConfigOf (lineConfigBytes l cfg) = some (l, cfg) := by
  have hl : finOf 48 (BitVec.ofNat 8 l.val).toNat = some l := by
    rw [BitVec.toNat_ofNat, Nat.mod_eq_of_lt (by omega)]; exact finOf_val l
  have hgm : (BitVec.ofNat 8 cfg.g).toNat = cfg.g := by rw [BitVec.toNat_ofNat]; exact Nat.mod_eq_of_lt hg
  simp only [lineConfigOf, lineConfigBytes, field, beValue, List.drop_succ_cons, List.drop_zero, List.take_succ_cons,
    List.take_zero, List.foldl_cons, List.foldl_nil, Nat.zero_mul, Nat.zero_add, hl, lineDirOf_code, levelOf_code, boolOf_code,
    lineFnOf_code, hgm]

/-! ## The refusals (R25, R34, R35) -/

theorem serveSetLine_eq {b : List Byte} (h : lineConfigOf b = some (l, cfg)) :
    serveSetLine b s = if s.lmx.claimed l cfg.fn = true then .refused .claimed
      else if s.setLineBusy l cfg = true then .refused .busy
      else .reply (s.applySetLine l cfg) (((s.applySetLine l cfg).line l).setLinePayload l) := by
  unfold serveSetLine; rw [h]

/-- The four functions with a recorded holder are those that at most one line holds. -/
theorem Lmx.holderOf_single {x : Lmx} {fn : LineFn} {m : LineNo} (h : x.holderOf fn = some m) : fn.single = true := by
  cases fn
  case unused | general | eye => cases h
  all_goals rfl

theorem Lmx.claimed_iff (x : Lmx) (l : LineNo) (fn : LineFn) :
    x.claimed l fn = true ↔ fn.single = true ∧ ∃ m, x.holderOf fn = some m ∧ m ≠ l := by
  unfold Lmx.claimed
  cases h : x.holderOf fn with
  | none => simp
  | some m => simp [Lmx.holderOf_single h]

/-- The three conditions of R35. -/
theorem State.setLineBusy_iff (s : State) (l : LineNo) (cfg : LineConfig) :
    s.setLineBusy l cfg = true ↔
      ((s.line l).cfg.fn = .eye ∧ s.ttb.lineHolder[l] ≠ none
          ∧ (cfg.fn ≠ (s.line l).cfg.fn ∨ cfg.dir ≠ (s.line l).cfg.dir ∨ cfg.active ≠ (s.line l).cfg.active))
        ∨ (¬(cfg.fn = .home ↔ (s.line l).cfg.fn = .home)
          ∧ ∃ k t, s.trial k = some t ∧ t.state ≠ .loaded ∧ (t.target.kind = .chute ∨ t.target.kind = .eye))
        ∨ (s.dlk.state.engaged = true ∧ cfg ≠ (s.line l).cfg
          ∧ (((s.line l).cfg.fn = .linkRequest ∨ (s.line l).cfg.fn = .linkBusy)
            ∨ ((cfg.fn = .linkRequest ∨ cfg.fn = .linkBusy) ∧ cfg.fn ≠ (s.line l).cfg.fn))) := by
  have hne : ∀ p q : Prop, [Decidable p] → [Decidable q] → ((decide p != decide q) = true ↔ ¬(p ↔ q)) := by
    intro p q _ _; by_cases hp : p <;> by_cases hq : q <;> simp [hp, hq]
  simp only [State.setLineBusy, Bool.or_eq_true, Bool.and_eq_true, decide_eq_true_eq, hne, Ttb.anyBegun_iff,
    LineFn.handover, Option.isSome_iff_ne_none, or_assoc, and_assoc]

/-! ## The line matrix under a new configuration -/

theorem Lmx.takeHolder_lines (x : Lmx) (l : LineNo) (fn : LineFn) : (x.takeHolder l fn).lines = x.lines := by cases fn <;> rfl

theorem Lmx.configure_lines (x : Lmx) (l : LineNo) (cfg : LineConfig) :
    (x.configure l cfg).lines = x.lines.set l ((x.lines[l]).configure cfg) := Lmx.takeHolder_lines _ _ _

theorem Lmx.takeHolder_holder (x : Lmx) (l : LineNo) (fn g : LineFn) (h : g.single = true) :
    (x.takeHolder l fn).holderOf g = if fn = g then some l else x.holderOf g := by
  cases g
  case unused | general | eye => cases h
  all_goals cases fn <;> rfl

theorem Lmx.dropHolder_holder (x : Lmx) (l : LineNo) (g : LineFn) :
    (x.dropHolder l).holderOf g = if x.holderOf g = some l then none else x.holderOf g := by
  cases g <;> rfl

/-- The holders follow the configuration (R25). -/
theorem Lmx.configure_holder (x : Lmx) (l : LineNo) (cfg : LineConfig) (g : LineFn) (h : g.single = true) :
    (x.configure l cfg).holderOf g = if cfg.fn = g then some l else if x.holderOf g = some l then none else x.holderOf g := by
  rw [Lmx.configure, Lmx.takeHolder_holder _ _ _ _ h, Lmx.dropHolder_holder]; rfl

/-- A STOP condition begins exactly when the line takes STOP with its accepted level active, none holding before (R31). -/
theorem Lmx.stop_begins (x : Lmx) (l : LineNo) (cfg : LineConfig) :
    ((x.configure l cfg).stopHolds && !x.stopHolds) = true
      ↔ x.stopHolds = false ∧ cfg.fn = .stop ∧ (x.lines[l]).accepted = cfg.active := by
  have hh : (x.configure l cfg).stopHolder =
      if cfg.fn = .stop then some l else if x.stopHolder = some l then none else x.stopHolder :=
    x.configure_holder l cfg .stop rfl
  have hl : ∀ m : LineNo, (x.configure l cfg).lines[m] = if l = m then (x.lines[l]).configure cfg else x.lines[m] := by
    intro m; rw [Lmx.configure_lines]; exact slotItem_set _ _ _ _
  have hs : (x.configure l cfg).stopHolds = true ↔
      (if cfg.fn = .stop then (x.lines[l]).accepted = cfg.active else x.stopHolds = true ∧ x.stopHolder ≠ some l) := by
    by_cases hf : cfg.fn = .stop
    · rw [if_pos hf] at hh ⊢
      simp only [Lmx.stopHolds, hh, hl, if_true]
      exact decide_eq_true_iff
    · rw [if_neg hf] at hh ⊢
      by_cases hx : x.stopHolder = some l
      · rw [if_pos hx] at hh; simp [Lmx.stopHolds, hh, hx]
      · rw [if_neg hx] at hh
        cases hm : x.stopHolder with
        | none => simp [Lmx.stopHolds, hh, hm]
        | some m =>
          have hlm : l ≠ m := by rintro rfl; exact hx hm
          simp [Lmx.stopHolds, hh, hm, hl, hlm, hlm.symm]
  rw [Bool.and_eq_true, hs, Bool.not_eq_true']
  by_cases hf : cfg.fn = .stop
  · simp [hf, and_comm]
  · simp +contextual [hf]

end Sys2Proof.Machine
end

section
/-! What an accepted SetLine leaves (R15, R31, R36). -/

namespace Sys2Proof.Machine

variable {s u : State} {dt : Time} {f : Frame} {rest : List Frame} {l : LineNo} {cfg : LineConfig}

/-! ## STOP assertions -/

/-- Run control HALTED by a STOP, with the safe levels where the part was RUNNING (R33, R70). -/
def State.stopped (s : State) : State :=
  (s.setTtb { s.ttb with run := .halted .stop }).setLmx (if s.ttb.run = .running then s.lmx.applySafe else s.lmx)

theorem State.stopAssert_kept (s : State) : s.stopAssert.kept = s.stopped.kept := by
  unfold State.stopAssert State.stopped
  cases h : s.ttb.run with
  | running => exact s.enterHalted_kept .stop
  | halted c => rw [if_neg (by simp)]; exact s.stopWhileHalted_kept

/-- What is kept after a STOP follows from what is kept before it. -/
theorem State.stopped_kept (s : State) : s.stopped.kept = s.kept.stopped := by
  unfold State.stopped
  change State.kept _ = ((s.kept.setTtb _).setLmx (if s.ttb.run = .running then _ else _))
  split <;> rfl

/-! ## The accepted request -/

/-- Giving or taking HOME. -/
def movesHome (old new : LineFn) : Bool := decide (old = .home) != decide (new = .home)

/-- The line matrix and the tracker under the new configuration. -/
def State.lineSet (s : State) (l : LineNo) (cfg : LineConfig) : State :=
  (s.setLmx (s.lmx.configure l cfg)).setLtr (if movesHome (s.line l).cfg.fn cfg.fn then s.ltr.unsync else s.ltr)

/-- An accepted SetLine before its STOP assertion, if it makes one: a scan follows a tracker that leaves SYNCED or LOST
(R15, R16). -/
def State.homeSet (s : State) (l : LineNo) (cfg : LineConfig) : State :=
  if movesHome (s.line l).cfg.fn cfg.fn && decide (s.ltr.trust ≠ .unsynced)
  then (s.setLmx (s.lmx.configure l cfg)).unsync.scan
  else s.setLmx (s.lmx.configure l cfg)

theorem State.applySetLine_eq (s : State) (l : LineNo) (cfg : LineConfig) :
    s.applySetLine l cfg = (if (s.homeSet l cfg).lmx.stopHolds && !s.lmx.stopHolds then (s.homeSet l cfg).stopAssert
      else s.homeSet l cfg).scan := rfl

theorem State.unsync_kept (s : State) : s.unsync.kept = (s.setLtr s.ltr.unsync).kept := by
  unfold State.unsync
  split
  · rename_i h
    have e : s.ltr.unsync = s.ltr := by rw [Ltr.unsync, ← h]
    rw [e]; rfl
  · rw [State.raise_kept]

theorem State.homeSet_kept (s : State) (l : LineNo) (cfg : LineConfig) : (s.homeSet l cfg).kept = (s.lineSet l cfg).kept := by
  unfold State.homeSet State.lineSet
  cases movesHome (s.line l).cfg.fn cfg.fn with
  | false => rfl
  | true =>
    by_cases ht : s.ltr.trust = .unsynced
    · have e : s.ltr.unsync = s.ltr := by rw [Ltr.unsync, ← ht]
      simp only [ht, e, Bool.true_and, ne_eq, not_true_eq_false, decide_false, Bool.false_eq_true, if_false, if_true]; rfl
    · simp only [ht, Bool.true_and, ne_eq, not_false_eq_true, decide_true, if_true, State.scan_kept, State.unsync_kept,
        State.setLmx_ltr]

/-- Beyond the line and the tracker an accepted SetLine asserts a STOP that begins with it, and nothing else that is kept
changes. -/
theorem State.applySetLine_kept (s : State) (l : LineNo) (cfg : LineConfig) :
    (s.applySetLine l cfg).kept = (if (s.lmx.configure l cfg).stopHolds && !s.lmx.stopHolds then (s.lineSet l cfg).stopped
      else s.lineSet l cfg).kept := by
  have hk := s.homeSet_kept l cfg
  have hstop : (s.homeSet l cfg).lmx.stopHolds = (s.lmx.configure l cfg).stopHolds :=
    show (s.homeSet l cfg).kept.lmx.stopHolds = (s.lineSet l cfg).kept.lmx.stopHolds by rw [hk]
  rw [State.applySetLine_eq, State.scan_kept, hstop]
  split
  · rw [State.stopAssert_kept, State.stopped_kept, hk, State.stopped_kept]
  · exact hk

/-! ## The line, the holders and the tracker afterwards -/

theorem FieldLine.makeSafe_eq (x : FieldLine) : ∃ o, x.makeSafe = { x with cfg := { x.cfg with output := o } } := by
  unfold FieldLine.makeSafe; split
  · exact ⟨_, rfl⟩
  · exact ⟨x.cfg.output, rfl⟩

theorem State.lineSet_line (s : State) (l : LineNo) (cfg : LineConfig) (m : LineNo) :
    (s.lineSet l cfg).line m = if l = m then (s.line l).configure cfg else s.line m := by
  change (s.lmx.configure l cfg).lines[m] = _
  rw [Lmx.configure_lines]; exact slotItem_set _ _ _ _

/-- The safe levels reach the outputs alone. -/
theorem State.stopped_line (s : State) (m : LineNo) :
    ∃ o, s.stopped.line m = { s.line m with cfg := { (s.line m).cfg with output := o } } := by
  have e : s.stopped.line m = if s.ttb.run = .running then (s.line m).makeSafe else s.line m := by
    unfold State.stopped
    change (if s.ttb.run = .running then s.lmx.applySafe else s.lmx).lines[m] = _
    split
    · exact Vector.getElem_map ..
    · rfl
  rw [e]; split
  · exact FieldLine.makeSafe_eq _
  · exact ⟨(s.line m).cfg.output, rfl⟩

theorem State.stopped_holder (s : State) (fn : LineFn) : s.stopped.lmx.holderOf fn = s.lmx.holderOf fn := by
  change Lmx.holderOf (if s.ttb.run = .running then s.lmx.applySafe else s.lmx) fn = _
  split
  · cases fn <;> rfl
  · rfl

theorem State.line_of_kept {s t : State} (h : s.kept = t.kept) (m : LineNo) : s.line m = t.line m := by
  unfold State.line; rw [State.lines_of_kept h]

theorem State.holder_of_kept {s t : State} (h : s.kept = t.kept) (fn : LineFn) : s.lmx.holderOf fn = t.lmx.holderOf fn := by
  have e : s.lmx.kept.holderOf fn = t.lmx.kept.holderOf fn := congrArg (fun x => x.lmx.holderOf fn) h
  cases fn <;> exact e

/-- The line as it is read back: the configuration taken, its output at the safe level perhaps, the accepted level kept, the filter
count cleared by a change of g (R30, R33, R36). -/
theorem State.applySetLine_line (s : State) (l : LineNo) (cfg : LineConfig) :
    ∃ o, (s.applySetLine l cfg).line l = { (s.line l).configure cfg with cfg := { cfg with output := o } } := by
  have hl : (s.lineSet l cfg).line l = (s.line l).configure cfg := (s.lineSet_line l cfg l).trans (if_pos rfl)
  rw [State.line_of_kept (s.applySetLine_kept l cfg)]
  split
  · obtain ⟨o, e⟩ := (s.lineSet l cfg).stopped_line l
    exact ⟨o, by rw [e, hl]; rfl⟩
  · exact ⟨cfg.output, hl⟩

theorem State.applySetLine_holder (s : State) (l : LineNo) (cfg : LineConfig) {fn : LineFn} (h : fn.single = true) :
    (s.applySetLine l cfg).lmx.holderOf fn
      = if cfg.fn = fn then some l else if s.lmx.holderOf fn = some l then none else s.lmx.holderOf fn := by
  rw [State.holder_of_kept (s.applySetLine_kept l cfg), ← Lmx.configure_holder _ _ _ _ h]
  split
  · rw [State.stopped_holder]; rfl
  · rfl

theorem State.applySetLine_ltr (s : State) (l : LineNo) (cfg : LineConfig) :
    (s.applySetLine l cfg).ltr = if movesHome (s.line l).cfg.fn cfg.fn then s.ltr.unsync else s.ltr := by
  rw [State.ltr_of_kept (s.applySetLine_kept l cfg), apply_ite State.ltr]
  exact ite_self _

theorem movesHome_iff (old new : LineFn) : movesHome old new = true ↔ (old = .home ∨ new = .home) ∧ old ≠ new := by
  cases old <;> cases new <;> decide

/-- The reply to SetLine, for the line as it is read back (R36, R185). -/
theorem FieldLine.setLinePayload_eq (x : FieldLine) (l : LineNo) : x.setLinePayload l =
    [BitVec.ofNat 8 l.val, BitVec.ofNat 8 x.cfg.dir.code, BitVec.ofNat 8 x.cfg.output.code, BitVec.ofNat 8 x.cfg.safe.code,
     BitVec.ofNat 8 (boolCode x.cfg.pullUp), BitVec.ofNat 8 x.cfg.active.code, BitVec.ofNat 8 x.cfg.g,
     BitVec.ofNat 8 x.cfg.fn.code, BitVec.ofNat 8 x.effDir.code, BitVec.ofNat 8 (boolCode x.effPull),
     BitVec.ofNat 8 x.accepted.code] := by
  simp [FieldLine.setLinePayload, byte, beBytes]

/-- With no STOP condition beginning, the line takes the configuration and no other line, nor the run control, changes. -/
theorem State.applySetLine_without_stop (h : ¬(s.lmx.stopHolds = false ∧ cfg.fn = .stop ∧ (s.line l).accepted = cfg.active)) :
    (s.applySetLine l cfg).line l = (s.line l).configure cfg
      ∧ (∀ m, m ≠ l → (s.applySetLine l cfg).line m = s.line m) ∧ (s.applySetLine l cfg).ttb.run = s.ttb.run := by
  have hkept := s.applySetLine_kept l cfg
  rw [if_neg (mt (s.lmx.stop_begins l cfg).1 h)] at hkept
  refine ⟨?_, fun m hm => ?_, (State.run_of_kept hkept :)⟩
  · rw [State.line_of_kept hkept, State.lineSet_line, if_pos rfl]
  · rw [State.line_of_kept hkept, State.lineSet_line, if_neg hm.symm]

theorem State.applySetLine_stop_halts (hno : s.lmx.stopHolds = false) (hfn : cfg.fn = .stop)
    (hactive : (s.line l).accepted = cfg.active) : (s.applySetLine l cfg).ttb.run = .halted .stop := by
  have hkept := s.applySetLine_kept l cfg
  rw [if_pos ((s.lmx.stop_begins l cfg).2 ⟨hno, hfn, hactive⟩)] at hkept
  exact (State.run_of_kept hkept :)

theorem exec_setLine (hs : State.Serves s f rest) (hk : f.kind = 0x0A#8) (hlen : f.payload.length = 8) :
    exec (.setLine dt) s = .next ((s.serving dt rest).answer f (serveSetLine f.payload (s.serving dt rest))).kick :=
  serve_serves hs hk hlen

/-- Settles O44: what the payload reads as, the refusals in their order, and the acceptance. -/
theorem setLineConfiguresTheLine : Obligations.SetLineConfiguresTheLine := by
  refine ⟨⟨fun x => ⟨Nat.zero_le _, by cases x <;> rfl⟩, fun x => ⟨Nat.zero_le _, by cases x <;> rfl⟩,
    fun x => ⟨Nat.zero_le _, by cases x <;> rfl⟩, fun x => ⟨Nat.zero_le _, by cases x <;> rfl⟩⟩, ?_, ?_⟩
  · intro dt s f rest l cfg hs hk hg hpay old claimed begun handover busy new
    have hexec := exec_setLine (dt := dt) hs hk (by rw [hpay]; rfl)
    rw [serveSetLine_eq (by rw [hpay]; exact lineConfigOf_bytes l hg)] at hexec
    have hclaimed : (s.serving dt rest).lmx.claimed l cfg.fn = true ↔ claimed := Lmx.claimed_iff _ _ _
    have hbusy : (s.serving dt rest).setLineBusy l cfg = true ↔ busy := State.setLineBusy_iff _ _ _
    refine ⟨fun h => ?_, fun hc h => ?_, fun hc hb => ⟨(s.serving dt rest).applySetLine l cfg, ?_⟩⟩
    · rw [hexec, if_pos (hclaimed.2 h)]; rfl
    · rw [hexec, if_neg (mt hclaimed.1 hc), if_pos (hbusy.2 h)]; rfl
    rw [if_neg (mt hclaimed.1 hc), if_neg (mt hbusy.1 hb), FieldLine.setLinePayload_eq] at hexec
    obtain ⟨o, hline⟩ := (s.serving dt rest).applySetLine_line l cfg
    have hltr : ((s.serving dt rest).applySetLine l cfg).ltr = if movesHome old.cfg.fn cfg.fn then s.ltr.unsync else s.ltr :=
      State.applySetLine_ltr _ l cfg
    refine ⟨?_, ?_, ?_, ?_, fun fn hfn => State.applySetLine_holder _ l cfg hfn, fun hh hne => ?_, fun hh => ?_,
      fun hstay => State.applySetLine_without_stop fun h => ?_, fun h1 h2 h3 => State.applySetLine_stop_halts h1 h2 h3⟩
    · rw [hexec, hline]; rfl
    · rw [hline]; rfl
    · rw [hline]; rfl
    · rw [hline]
    · rw [hltr, if_pos ((movesHome_iff _ _).2 ⟨hh, hne⟩)]; rfl
    · rw [hltr, if_neg fun hm => ?_]
      obtain ⟨h1 | h1, h2⟩ := (movesHome_iff _ _).1 hm
      · exact h2 (h1.trans (hh.1 h1).symm)
      · exact h2 ((hh.2 h1).trans h1.symm)
    · obtain ⟨hno, hfn, hactive⟩ := h
      obtain hh | hh | hh := hstay
      · exact Bool.false_ne_true (hno.symm.trans hh)
      · exact hh hfn
      · exact hh hactive
  · intro dt s f rest hs hk hl hbad
    rw [exec_setLine hs hk hl]
    cases hx : lineConfigOf f.payload with
    | none => rw [serveSetLine, hx]; rfl
    | some x =>
      obtain ⟨h1, h2, h3, h4, h5, h6, h7⟩ := lineConfigOf_lt hx
      omega

end Sys2Proof.Machine
end

section
/-! The zone windows and the target records: every step keeps them sound (R39, R40, R43 to R49). -/

namespace Sys2Proof.Machine

/-! ## Records in a table -/

/-- Reading one item back after an item is set. -/
theorem vectorItem_set {α : Type} {n : Nat} (v : Vector α n) (k : Fin n) (x : α) (j : Fin n) :
    (v.set k x)[j] = if k = j then x else v[j] := by
  simp only [Fin.getElem_fin, Vector.getElem_set, Fin.ext_iff]

/-- A record found after one has been defined is that one, or was there before. -/
theorem recordItem_set {α : Type} {n : Nat} {v : Vector (Option α) n} {k j : Fin n} {x r : α}
    (h : (v.set k (some x))[j] = some r) : (k = j ∧ x = r) ∨ v[j] = some r := by
  rw [vectorItem_set] at h
  split at h
  · rename_i hk; exact .inl ⟨hk, Option.some.inj h⟩
  · exact .inr h

/-! ## Windows -/

theorem inWindow_iff {b c : Nat} : inWindow b c = true ↔ b ≤ c ∧ c ≤ b + 7 := by simp [inWindow]

/-- Windows of eight chutes share none exactly when one ends before the other begins. -/
theorem windowsOverlap_iff {a b : Nat} : windowsOverlap a b = true ↔ ¬(a + 8 ≤ b ∨ b + 8 ≤ a) := by
  simp only [windowsOverlap, Bool.and_eq_true, decide_eq_true_eq]; omega

/-- The channel found for a chute serves that chute (R39). -/
theorem Zmr.chuteOf_channelOf {z : Zmr} {c : Nat} {n : Chan} (h : z.channelOf c = some n) : z.chuteOf n = c := by
  unfold Zmr.channelOf at h
  split at h
  · rename_i hw
    have hw := inWindow_iff.1 hw
    injection h with h
    have hn : n.val = c - z.baseA := by rw [← h]; exact Nat.mod_eq_of_lt (by omega)
    rw [Zmr.chuteOf, if_pos (by omega)]; omega
  · split at h
    · rename_i hw
      have hw := inWindow_iff.1 hw
      injection h with h
      have hn : n.val = 8 + (c - z.baseB) := by rw [← h]; exact Nat.mod_eq_of_lt (by omega)
      rw [Zmr.chuteOf, if_neg (by omega)]; omega
    · cases h

/-- A moved window leaves its channels no record, and every other channel keeps its own (R41). -/
theorem Zmr.setZone_chutes (z : Zmr) (a b : Nat) (n : Chan) : (z.setZone a b).chutes[n] =
    if n.val < 8 then (if a = z.baseA then z.chutes[n] else none) else if b = z.baseB then z.chutes[n] else none := by
  have h : (z.setZone a b).chutes[n] =
      if (n.val < 8 ∧ a ≠ z.baseA) ∨ (8 ≤ n.val ∧ b ≠ z.baseB) then none else z.chutes[n] := Vector.getElem_ofFn ..
  rw [h]
  by_cases hn : n.val < 8
  · have hn' : ¬8 ≤ n.val := by omega
    simp [hn, hn']
  · have hn' : 8 ≤ n.val := by omega
    simp [hn, hn']

/-- A channel that keeps its record through SetZone keeps its chute. -/
theorem Zmr.setZone_keeps_chute {z : Zmr} {a b : Nat} {n : Chan} {r : ChuteRecord}
    (h : (z.setZone a b).chutes[n] = some r) : z.chutes[n] = some r ∧ (z.setZone a b).chuteOf n = z.chuteOf n := by
  rw [Zmr.setZone_chutes] at h
  simp only [Zmr.chuteOf, Zmr.setZone]
  split at h
  · split at h
    · rename_i hn ha; exact ⟨h, by rw [if_pos hn, if_pos hn, ha]⟩
    · cases h
  · split at h
    · rename_i hn hb; exact ⟨h, by rw [if_neg hn, if_neg hn, hb]⟩
    · cases h

/-! ## Ranges -/

theorem ChuteRecord.inRange_iff (r : ChuteRecord) (l : Ltr) : r.inRange l = true ↔
    r.chute ≤ 1023 ∧ r.S < l.L ∧ r.tau ≤ 65535 ∧ (r.wOpen ≤ r.wClose ∧ r.wClose + r.wLate ≤ 16777215)
      ∧ r.profile.inRange = true ∧ r.trace.inRange = true := by
  simp [ChuteRecord.inRange, and_assoc]

theorem EyeRecord.inRange_iff (r : EyeRecord) (l : Ltr) : r.inRange l = true ↔
    r.X < l.L ∧ r.tol ≤ l.P / 2 ∧ (∀ e, r.expected = some e → e ≤ l.P ∧ r.lenTol ≤ l.P)
      ∧ 1 ≤ r.passes ∧ r.passes ≤ 255 := by
  cases h : r.expected with
  | none => simp [EyeRecord.inRange, EyeRecord.fits, h, and_assoc]
  | some e => simp [EyeRecord.inRange, EyeRecord.fits, h, and_assoc]

theorem DriveRecord.inRange_iff (r : DriveRecord) : r.inRange = true ↔
    r.base ≤ r.maximum ∧ (1 ≤ r.checkMs ∧ r.checkMs ≤ 255) ∧ (1 ≤ r.riseLimit ∧ r.riseLimit ≤ 1000) := by
  simp [DriveRecord.inRange, and_assoc]

/-! ## The invariant -/

variable {l : Ltr} {z x : Zmr}

theorem Zmr.Sound.setZone (h : z.Sound) {a b : Nat} (hb : a ≤ 1016 ∧ b ≤ 1016) (ho : windowsOverlap a b = false) :
    (z.setZone a b).Sound := by
  obtain ⟨-, -, hchutes, heyes, hdrives⟩ := h
  refine ⟨hb, ?_, fun n r hr => ?_, heyes, hdrives⟩
  · have := mt windowsOverlap_iff.2 (by rw [ho]; exact Bool.false_ne_true)
    exact Decidable.not_not.1 this
  · obtain ⟨hz, hc⟩ := Zmr.setZone_keeps_chute hr
    rw [hc]; exact hchutes n r hz

theorem Zmr.Sound.setChute (h : z.Sound) {n : Chan} {r : ChuteRecord} (hn : z.channelOf r.chute = some n)
    (hr : r.inRange l = true) : Zmr.Sound { z with chutes := z.chutes.set n (some r) } := by
  obtain ⟨hbases, hapart, hchutes, heyes, hdrives⟩ := h
  refine ⟨hbases, hapart, fun m q hq => ?_, heyes, hdrives⟩
  rcases recordItem_set hq with ⟨rfl, rfl⟩ | hq
  · obtain ⟨-, -, htau, ⟨hopen, hclose⟩, hprofile, htrace⟩ := (r.inRange_iff l).1 hr
    exact ⟨(Zmr.chuteOf_channelOf hn).symm, hprofile, htrace, htau, hopen, hclose⟩
  · exact hchutes m q hq

theorem Zmr.Sound.setEye (h : z.Sound) {k : Fin 16} {r : EyeRecord} (hr : r.inRange l = true) :
    Zmr.Sound { z with eyes := z.eyes.set k (some r) } := by
  obtain ⟨hbases, hapart, hchutes, heyes, hdrives⟩ := h
  refine ⟨hbases, hapart, hchutes, fun m q hq => ?_, hdrives⟩
  rcases recordItem_set hq with ⟨-, rfl⟩ | hq
  · obtain ⟨-, -, -, hpasses⟩ := (r.inRange_iff l).1 hr
    exact hpasses
  · exact heyes m q hq

theorem Zmr.Sound.setDrive (h : z.Sound) {k : Fin 8} {r : DriveRecord} (hr : r.inRange = true) :
    Zmr.Sound { z with drives := z.drives.set k (some r) } := by
  obtain ⟨hbases, hapart, hchutes, heyes, hdrives⟩ := h
  refine ⟨hbases, hapart, hchutes, heyes, fun m q hq => ?_⟩
  rcases recordItem_set hq with ⟨-, rfl⟩ | hq
  · exact r.inRange_iff.1 hr
  · exact hdrives m q hq

/-- Every accepted request keeps the windows and the records sound. -/
theorem ZmrMove.sound (m : ZmrMove l z x) (h : z.Sound) : x.Sound := by
  cases m with
  | zone a b ha ho => exact h.setZone ha ho
  | chute n r hn hr => exact h.setChute hn hr
  | eye k r hr => exact h.setEye hr
  | drive k r hr => exact h.setDrive hr

/-- No event but those four requests and the resets reaches the zone map. -/
theorem zmr_sound_stable : Stable fun s => s.zmr.Sound where
  effects _ _ e h := State.zmr_of_kept e.kept_eq ▸ h
  time _ _ h := h
  power _ _ _ := Zmr.reset_sound
  soft _ _ := Zmr.reset_sound
  hlk _ _ _ h := h
  ltr _ _ _ h := h
  lmx _ _ _ h := h
  zmr _ _ m h := m.sound h
  tru _ _ h := h
  halt s c h := by
    have e := State.zmr_of_kept (s.enterHalted_kept c)
    simpa [e] using h
  stop _ _ _ h := h
  resume _ h := h
  boundary _ h := h
  clear _ _ h := h
  load _ _ _ _ _ _ h := h
  log _ _ h := h

/-- Settles O56: soundness of the windows and the records is a stable invariant. -/
theorem recordsStaySound : Obligations.RecordsStaySound :=
  fun _ _ hs h => zmr_sound_stable.keep_step (fun _ _ h => h) hs h

end Sys2Proof.Machine
end

section
/-! Fields of a payload read back from their bytes (R178, R183, R185), and what the requests for records share: their answers and the
trials that use a record (R40, R50). -/

namespace Sys2Proof.Machine

variable {s : State} {dt : Time} {f : Frame} {rest : List Frame}

/-! ## Fields of a payload -/

theorem beBytes_length (w n : Nat) : (beBytes w n).length = w := by
  induction w with
  | zero => rfl
  | succ w ih => rw [beBytes, List.length_cons, ih]

/-- The `w` bytes of a number spell it modulo 256^w, below what bytes already read have left. -/
theorem beBytes_fold (w n acc : Nat) :
    (beBytes w n).foldl (fun a b => a * 256 + b.toNat) acc = acc * 256 ^ w + n % 256 ^ w := by
  induction w generalizing acc with
  | zero => simp [beBytes, Nat.mod_one]
  | succ w ih =>
    have hsplit : n % (256 ^ w * 256) = n % 256 ^ w + 256 ^ w * (n / 256 ^ w % 256) := Nat.mod_mul
    rw [beBytes, List.foldl_cons, ih, BitVec.toNat_ofNat, Nat.pow_succ (n := 256), hsplit, show 2 ^ 8 = 256 from rfl,
      Nat.add_mul]
    ac_rfl

/-- A field whose bytes stand first is read back. -/
theorem field_here {w n : Nat} (h : n < 256 ^ w) (more : List Byte) : field (beBytes w n ++ more) 0 w = n := by
  have hlen := beBytes_length w n
  rw [field, List.drop_zero, List.take_append_of_le_length (Nat.le_of_eq hlen.symm),
    List.take_of_length_le (Nat.le_of_eq hlen), beValue, beBytes_fold,
    Nat.mod_eq_of_lt h, Nat.zero_mul, Nat.zero_add]

/-- A field behind the bytes of another is read from what follows them. -/
theorem field_after {v off : Nat} (h : v ≤ off) (n w : Nat) (more : List Byte) :
    field (beBytes v n ++ more) off w = field more (off - v) w := by
  have hlen := beBytes_length v n
  rw [field, List.drop_append, List.drop_of_length_le (Nat.le_trans (Nat.le_of_eq hlen) h), hlen, List.nil_append, field]

/-- The last field of a payload. -/
theorem field_last {w n : Nat} (h : n < 256 ^ w) : field (beBytes w n) 0 w = n := by
  have := field_here h []
  rwa [List.append_nil] at this

theorem boolOf_boolCode (b : Bool) : boolOf (boolCode b) = some b := by cases b <;> rfl

theorem boolCode_lt (b : Bool) : boolCode b < 256 := by cases b <;> decide

theorem byte_eq {n : Nat} : byte n = [BitVec.ofNat 8 n] := by simp [byte, beBytes]

/-! ## Answers -/

/-- A block's refusal takes its place, and no block has changed. -/
theorem State.serving_refused (r : RefuseReason) :
    ((s.serving dt rest).answer f (.refused r)).kick = s.refusal dt f rest r := rfl

/-- The scan that an accepted request causes leaves the records it has set. -/
theorem State.setZmr_scan_zmr (s : State) (z : Zmr) : (s.setZmr z).scan.zmr = z := State.zmr_of_kept (State.scan_kept _)

/-! ## Records in use -/

theorem Ttb.chuteInUse_iff (c : Nat) : s.ttb.chuteInUse c = true ↔
    ∃ k t, s.trial k = some t ∧ t.state ≠ .loaded ∧ t.target.chute? = some c := by
  simp only [Ttb.chuteInUse, Ttb.anyBegun_iff, decide_eq_true_eq]

theorem Ttb.eyeInUse_iff (m : Fin 16) : s.ttb.eyeInUse m = true ↔
    ∃ k t, s.trial k = some t ∧ t.state ≠ .loaded ∧ t.target = .eye m := by
  simp only [Ttb.eyeInUse, Ttb.anyBegun_iff, decide_eq_true_eq]

theorem Ttb.driveInUse_iff (m : Fin 8) : s.ttb.driveInUse m = true ↔
    ∃ k t step vExp dur, s.trial k = some t ∧ t.state ≠ .loaded ∧ t.target = .drive m step vExp dur := by
  rw [Ttb.driveInUse, Ttb.anyBegun_iff]
  constructor
  · rintro ⟨k, t, hk, hl, ht⟩
    split at ht
    · rename_i r step vExp dur hd
      exact ⟨k, t, step, vExp, dur, hk, hl, by rw [hd, of_decide_eq_true ht]⟩
    · cases ht
  · rintro ⟨k, t, step, vExp, dur, hk, hl, ht⟩
    exact ⟨k, t, hk, hl, by simp [ht]⟩

/-- A window holds a target of an occupied slot, whatever the state of its trial (R40). -/
theorem Ttb.targetsWindow_iff (w : Nat) : s.ttb.targetsWindow w = true ↔
    ∃ k t c, s.trial k = some t ∧ t.target.chute? = some c ∧ w ≤ c ∧ c ≤ w + 7 := by
  have hm : ∀ k : Slot, k ∈ allSlots := List.mem_finRange
  simp only [Ttb.targetsWindow, List.any_eq_true]
  constructor
  · rintro ⟨k, -, h⟩
    split at h
    · rename_i t ht
      split at h
      · rename_i c hc; exact ⟨k, t, c, ht, hc, inWindow_iff.1 h⟩
      · cases h
    · cases h
  · rintro ⟨k, t, c, ht, hc, hw⟩
    refine ⟨k, hm k, ?_⟩
    rw [show s.ttb.slots[k] = some t from ht]
    simp [hc, inWindow_iff.2 hw]

end Sys2Proof.Machine
end

section
/-! SetZone (R40, R41). -/

namespace Sys2Proof.Machine

variable {s : State} {b : List Byte}

/-- SetZone is refused for a base first. -/
theorem serveSetZone_badValue (h : ¬(field b 0 2 ≤ 1016 ∧ field b 2 2 ≤ 1016)) : serveSetZone b s = .refused .badValue := by
  unfold serveSetZone; exact if_pos h

/-- With legal bases it is refused for windows that share a chute, and then for a moved window that holds a target. -/
theorem serveSetZone_eq (h : field b 0 2 ≤ 1016 ∧ field b 2 2 ≤ 1016) : serveSetZone b s =
    if windowsOverlap (field b 0 2) (field b 2 2) = true then .refused .overlap
    else if s.zoneBusy (field b 0 2) (field b 2 2) = true then .refused .busy
    else .reply (s.setZmr (s.zmr.setZone (field b 0 2) (field b 2 2))).scan
      (s.zmr.setZonePayload (field b 0 2) (field b 2 2)) := by
  unfold serveSetZone; exact if_neg (not_not_intro h)

theorem State.zoneBusy_iff (s : State) (a b : Nat) : s.zoneBusy a b = true ↔
    (a ≠ s.zmr.baseA ∧ ∃ k t c, s.trial k = some t ∧ t.target.chute? = some c ∧ s.zmr.baseA ≤ c ∧ c ≤ s.zmr.baseA + 7)
      ∨ (b ≠ s.zmr.baseB ∧ ∃ k t c, s.trial k = some t ∧ t.target.chute? = some c ∧ s.zmr.baseB ≤ c ∧ c ≤ s.zmr.baseB + 7) := by
  simp only [State.zoneBusy, Bool.or_eq_true, Bool.and_eq_true, decide_eq_true_eq, Ttb.targetsWindow_iff]

theorem Zmr.setZonePayload_eq (z : Zmr) (a b : Nat) : z.setZonePayload a b = beBytes 2 a ++ beBytes 2 b
    ++ [BitVec.ofNat 8 (boolCode (decide (a ≠ z.baseA))), BitVec.ofNat 8 (boolCode (decide (b ≠ z.baseB)))] := by
  simp only [Zmr.setZonePayload, byte_eq, List.append_assoc, List.singleton_append]

/-- The chutes of each channel follow the bases (R39). -/
theorem Zmr.setZone_chuteOf (z : Zmr) (a b : Nat) (n : Chan) :
    (z.setZone a b).chuteOf n = if n.val < 8 then a + n.val else b + n.val - 8 := by
  simp only [Zmr.chuteOf, Zmr.setZone]
  split
  · rfl
  · omega

/-- Settles O41: the three checks in their order, and then the move of the windows. -/
theorem setZoneMovesTheWindows : Obligations.SetZoneMovesTheWindows := by
  intro dt s f rest hserves hkind hlen a b targeted busy legal apart
  have hexec : exec (.setZone dt) s = .next ((s.serving dt rest).answer f (serveSetZone f.payload (s.serving dt rest))).kick :=
    serve_serves hserves hkind hlen
  have hoverlap : windowsOverlap a b = true ↔ ¬apart := windowsOverlap_iff
  have hbusy : (s.serving dt rest).zoneBusy a b = true ↔ busy := State.zoneBusy_iff _ _ _
  refine ⟨fun h => ?_, fun h ho => ?_, fun h ho hb => ?_, fun h ho hb => ?_⟩
  · rw [hexec, serveSetZone_badValue h, State.serving_refused]
  · rw [hexec, serveSetZone_eq h, if_pos (hoverlap.2 ho), State.serving_refused]
  · rw [hexec, serveSetZone_eq h, if_neg fun o => hoverlap.1 o ho, if_pos (hbusy.2 hb), State.serving_refused]
  · have hzmr := (s.serving dt rest).setZmr_scan_zmr (s.zmr.setZone a b)
    refine ⟨((s.serving dt rest).setZmr (s.zmr.setZone a b)).scan, ?_, ?_⟩
    · rw [hexec, serveSetZone_eq h, if_neg fun o => hoverlap.1 o ho, if_neg (mt hbusy.1 hb), State.serving_reply,
        Zmr.setZonePayload_eq]
      rfl
    · rw [hzmr]
      exact ⟨rfl, rfl, rfl, rfl, s.zmr.setZone_chutes a b, s.zmr.setZone_chuteOf a b, State.scan_kept _⟩

end Sys2Proof.Machine
end

section
/-! SetChute (R43 to R47, R50). -/

namespace Sys2Proof.Machine

variable {s : State} {b : List Byte} {r : ChuteRecord} {n : Chan}

/-! ## The fields (R44 to R46, R185) -/

/-- Each field of a profile fits the bytes that carry it (R45, R185). -/
def Profile.Carried (p : Profile) : Prop :=
  p.pullDuty < 65536 ∧ p.pullPeriods < 65536 ∧ p.holdDuty < 65536 ∧ p.holdPeriods < 65536 ∧ p.dead < 256
    ∧ p.returnDuty < 65536 ∧ p.returnPeriods < 65536 ∧ p.recover < 65536 ∧ p.trip < 65536

/-- Each trace field fits the bytes that carry it (R46, R185). -/
def TraceFields.Carried (x : TraceFields) : Prop :=
  x.m < 256 ∧ x.theta < 65536 ∧ x.cMin < 65536 ∧ x.dipMin < 2 ^ 24 ∧ x.dipMax < 2 ^ 24 ∧ x.holdLo < 65536 ∧ x.holdHi < 65536

/-- Each field of a chute record fits the bytes that carry it (R44 to R46, R185). -/
structure ChuteRecord.Carried (r : ChuteRecord) : Prop where
  chute : r.chute < 65536
  S : r.S < 2 ^ 24
  tau : r.tau < 65536
  wOpen : r.wOpen < 2 ^ 24
  wClose : r.wClose < 2 ^ 24
  wLate : r.wLate < 2 ^ 24
  profile : r.profile.Carried
  trace : r.trace.Carried

theorem eyeLineCode_lt (o : Option LineNo) : eyeLineCode o < 256 := by
  cases o with
  | none => decide
  | some l => simp only [eyeLineCode]; omega

theorem eyeLineOf_eyeLineCode (o : Option LineNo) : eyeLineOf (eyeLineCode o) = some o := by
  cases o with
  | none => rfl
  | some l =>
    have h : l.val ≠ 255 := by omega
    rw [eyeLineOf, eyeLineCode, if_neg h, finOf_val]; rfl

/-- A carried record is read back from its bytes, every field at its offset. -/
theorem chuteRecordOf_bytes (h : r.Carried) : chuteRecordOf (beBytes 2 r.chute ++ r.bytes) = some r := by
  obtain ⟨hchute, hS, htau, hopen, hclose, hlate, ⟨p1, p2, p3, p4, p5, p6, p7, p8, p9⟩, x1, x2, x3, x4, x5, x6, x7⟩ := h
  have heye := eyeLineCode_lt r.eyeLine
  have hon := boolCode_lt r.traceOn
  simp (disch := omega) only [chuteRecordOf, ChuteRecord.bytes, Profile.bytes, TraceFields.bytes, byte, List.append_assoc,
    field_after, field_here, field_last, Nat.reduceSub, eyeLineOf_eyeLineCode, boolOf_boolCode]

/-- Only an eye line, or none, and a trace enable are read as a record. -/
theorem chuteRecordOf_codes (h : chuteRecordOf b = some r) :
    (field b 7 1 < 48 ∨ field b 7 1 = 255) ∧ field b 34 1 < 2 := by
  unfold chuteRecordOf at h
  split at h
  · rename_i o on heye hon
    refine ⟨?_, boolOf_lt hon⟩
    unfold eyeLineOf at heye
    split at heye
    · exact .inr ‹_›
    · obtain ⟨l, hl, -⟩ := Option.map_eq_some_iff.1 heye
      exact .inl (finOf_lt hl)
  · cases h

/-! ## Check 1 (R44 to R47) -/

theorem Profile.inRange_carried {p : Profile} (h : p.Carried) : p.inRange = true ↔
    (1 ≤ p.pullDuty ∧ p.pullDuty ≤ 256) ∧ 1 ≤ p.pullPeriods ∧ p.holdDuty ≤ 256 ∧ 1 ≤ p.dead
      ∧ (1 ≤ p.returnDuty ∧ p.returnDuty ≤ 256) ∧ 1 ≤ p.trip ∧ p.trip ≤ 4095 := by
  obtain ⟨-, hpull, -, hhold, hdead, -, hreturn, hrecover, -⟩ := h
  simp only [Profile.inRange, Bool.and_eq_true, decide_eq_true_eq]
  omega

theorem TraceFields.inRange_iff (x : TraceFields) : x.inRange = true ↔
    (x.m = 1 ∨ x.m = 2 ∨ x.m = 4 ∨ x.m = 8) ∧ (1 ≤ x.theta ∧ x.theta ≤ 4095) ∧ x.cMin ≤ 4095
      ∧ (x.dipMin ≤ x.dipMax ∧ x.dipMax ≤ 1048575) ∧ x.holdLo ≤ x.holdHi ∧ x.holdHi ≤ 4095 := by
  simp only [TraceFields.inRange, Bool.and_eq_true, decide_eq_true_eq, and_assoc]

/-- Of a carried record, check 1 leaves the ranges that the bytes do not already hold. -/
theorem ChuteRecord.inRange_carried (h : r.Carried) (l : Ltr) : r.inRange l = true ↔
    r.chute ≤ 1023 ∧ r.S < l.L ∧ r.wOpen ≤ r.wClose ∧ r.wClose + r.wLate ≤ 16777215
      ∧ r.profile.inRange = true ∧ r.trace.inRange = true := by
  have htau : r.tau ≤ 65535 := Nat.le_of_lt_succ h.tau
  simp only [ChuteRecord.inRange_iff, htau, true_and, and_assoc]

/-! ## The request -/

theorem serveSetChute_none (h : chuteRecordOf b = none) : serveSetChute b s = .refused .badValue := by
  unfold serveSetChute; rw [h]

/-- SetChute is refused for a chute out of zone and for a field out of range alike. -/
theorem serveSetChute_badValue (h : chuteRecordOf b = some r) (hbad : s.zmr.channelOf r.chute = none ∨ ¬r.inRange s.ltr = true) :
    serveSetChute b s = .refused .badValue := by
  unfold serveSetChute
  rw [h]
  dsimp only
  split
  · rfl
  · rename_i m hm
    rcases hbad with hz | hr
    · rw [hm] at hz; cases hz
    · rw [if_pos (by simpa using hr)]

/-- It is then refused for a record in use. -/
theorem serveSetChute_eq (h : chuteRecordOf b = some r) (hn : s.zmr.channelOf r.chute = some n) (hr : r.inRange s.ltr = true) :
    serveSetChute b s = if s.ttb.chuteInUse r.chute = true then .refused .busy
      else .reply (s.setZmr { s.zmr with chutes := s.zmr.chutes.set n (some r) }).scan (r.setChutePayload n) := by
  unfold serveSetChute
  rw [h]
  dsimp only
  rw [hn]
  dsimp only
  rw [if_neg (by simp [hr])]

theorem ChuteRecord.setChutePayload_eq (r : ChuteRecord) (n : Chan) :
    r.setChutePayload n = beBytes 2 r.chute ++ BitVec.ofNat 8 n.val :: r.bytes := by
  simp only [ChuteRecord.setChutePayload, byte_eq, List.append_assoc, List.singleton_append]

theorem exec_setChute {dt : Time} {f : Frame} {rest : List Frame} (hs : s.Serves f rest) (hk : f.kind = 0x07#8)
    (hlen : f.payload.length = 50) :
    exec (.setChute dt) s = .next ((s.serving dt rest).answer f (serveSetChute f.payload (s.serving dt rest))).kick :=
  serve_serves hs hk hlen

/-- Settles O42: what the payload reads as, the refusals in their order, and the acceptance. -/
theorem setChuteStoresTheRecord : Obligations.SetChuteStoresTheRecord := by
  constructor
  · intro dt s f rest r hs hk hpay hchute hS htau hopen hclose hlate p x hp hx inUse profile trace legal
    have hexec := exec_setChute (dt := dt) hs hk (by rw [hpay]; rfl)
    have hc : r.Carried := ⟨hchute, hS, htau, hopen, hclose, hlate, hp, hx⟩
    have hread : chuteRecordOf f.payload = some r := by rw [hpay]; exact chuteRecordOf_bytes hc
    have hlegal : r.inRange (s.serving dt rest).ltr = true ↔ legal := by
      rw [ChuteRecord.inRange_carried hc, Profile.inRange_carried hp, TraceFields.inRange_iff]; rfl
    have huse : (s.serving dt rest).ttb.chuteInUse r.chute = true ↔ inUse := Ttb.chuteInUse_iff _
    refine ⟨fun hbad => ?_, fun n hn hl => ?_⟩
    · rw [hexec, serveSetChute_badValue hread (hbad.imp_right (mt hlegal.1)), State.serving_refused]
    rw [serveSetChute_eq (s := s.serving dt rest) hread hn (hlegal.2 hl)] at hexec
    refine ⟨fun hu => ?_, fun hu => ?_⟩
    · rw [hexec, if_pos (huse.2 hu), State.serving_refused]
    · have hzmr := (s.serving dt rest).setZmr_scan_zmr { s.zmr with chutes := s.zmr.chutes.set n (some r) }
      refine ⟨((s.serving dt rest).setZmr { s.zmr with chutes := s.zmr.chutes.set n (some r) }).scan, ?_, ?_⟩
      · rw [hexec, if_neg (mt huse.1 hu), State.serving_reply, ChuteRecord.setChutePayload_eq]; rfl
      · rw [hzmr]
        exact ⟨(vectorItem_set ..).trans (if_pos rfl), fun m hm => (vectorItem_set ..).trans (if_neg hm.symm),
          State.scan_kept _, rfl, rfl, rfl, rfl⟩
  · intro dt s f rest hs hk hlen hbad
    rw [exec_setChute hs hk hlen]
    cases hread : chuteRecordOf f.payload with
    | none => rw [serveSetChute_none hread, State.serving_refused]
    | some r =>
      obtain ⟨heye, hon⟩ := chuteRecordOf_codes hread
      omega

end Sys2Proof.Machine
end

section
/-! SetEye and SetDrive (R43, R48 to R50). -/

namespace Sys2Proof.Machine

variable {s : State} {b : List Byte} {dt : Time} {f : Frame} {rest : List Frame}

/-! ## The fields (R48, R49, R185) -/

/-- Each field of an eye record fits the bytes that carry it, and an expected length is not the 0 that stands for none (R48,
R183). -/
structure EyeRecord.Carried (r : EyeRecord) : Prop where
  X : r.X < 2 ^ 24
  tol : r.tol < 65536
  lenTol : r.lenTol < 65536
  passes : r.passes < 256
  expected : ∀ e, r.expected = some e → 1 ≤ e ∧ e < 65536

/-- Each field of a drive record fits the bytes that carry it (R49, R185). -/
structure DriveRecord.Carried (r : DriveRecord) : Prop where
  base : r.base < 65536
  maximum : r.maximum < 65536
  checkMs : r.checkMs < 256
  riseLimit : r.riseLimit < 65536
  overshootLimit : r.overshootLimit < 65536
  band : r.band < 65536

/-- An expected length is carried as itself, and none as 0 (R183). -/
theorem EyeRecord.Carried.expected_carried {r : EyeRecord} (h : r.Carried) :
    r.expected.getD 0 < 65536 ∧ (if r.expected.getD 0 = 0 then none else some (r.expected.getD 0)) = r.expected := by
  cases hx : r.expected with
  | none => exact ⟨by decide, rfl⟩
  | some e =>
    obtain ⟨h1, h2⟩ := h.expected e hx
    exact ⟨h2, if_neg (Nat.ne_of_gt h1)⟩

/-- A carried eye record and its index are read back from their bytes. -/
theorem eyeRecordOf_bytes {k : Fin 16} {r : EyeRecord} (h : r.Carried) : eyeRecordOf (r.setEyePayload k) = some (k, r) := by
  obtain ⟨hexpected, hback⟩ := h.expected_carried
  obtain ⟨hX, htol, hlenTol, hpasses, -⟩ := h
  have hline := r.line.isLt
  simp (disch := omega) only [eyeRecordOf, EyeRecord.setEyePayload, optBytes, byte, List.append_assoc, field_after, field_here,
    field_last, Nat.reduceSub, finOf_val, hback]

/-- A carried drive record and its index are read back from their bytes. -/
theorem driveRecordOf_bytes {k : Fin 8} {r : DriveRecord} (h : r.Carried) :
    driveRecordOf (r.setDrivePayload k) = some (k, r) := by
  obtain ⟨hbase, hmaximum, hcheckMs, hrise, hovershoot, hband⟩ := h
  have hselect := r.select.isLt
  simp (disch := omega) only [driveRecordOf, DriveRecord.setDrivePayload, byte, List.append_assoc, field_after, field_here,
    field_last, Nat.reduceSub, finOf_val]

/-- Only an index and a line are read as an eye record. -/
theorem eyeRecordOf_lt {x : Fin 16 × EyeRecord} (h : eyeRecordOf b = some x) : field b 0 1 < 16 ∧ field b 1 1 < 48 := by
  unfold eyeRecordOf at h
  split at h
  · rename_i hk hl; exact ⟨finOf_lt hk, finOf_lt hl⟩
  · cases h

/-- Only an index and a select are read as a drive record. -/
theorem driveRecordOf_lt {x : Fin 8 × DriveRecord} (h : driveRecordOf b = some x) : field b 0 1 < 8 ∧ field b 1 1 < 8 := by
  unfold driveRecordOf at h
  split at h
  · rename_i hk hs; exact ⟨finOf_lt hk, finOf_lt hs⟩
  · cases h

/-! ## Check 1 (R48, R49) -/

/-- Of a carried eye record, check 1 leaves the ranges that the bytes do not already hold. -/
theorem EyeRecord.inRange_carried {r : EyeRecord} (h : r.Carried) (l : Ltr) : r.inRange l = true ↔
    r.X < l.L ∧ r.tol ≤ l.P / 2 ∧ 1 ≤ r.passes ∧ ∀ e, r.expected = some e → e ≤ l.P ∧ r.lenTol ≤ l.P := by
  have hpasses : r.passes ≤ 255 := Nat.le_of_lt_succ h.passes
  simp only [EyeRecord.inRange_iff, hpasses, and_true]
  exact and_congr_right' (and_congr_right' and_comm)

/-- Of a carried drive record, check 1 leaves the ranges that the bytes do not already hold. -/
theorem DriveRecord.inRange_carried {r : DriveRecord} (h : r.Carried) : r.inRange = true ↔
    r.base ≤ r.maximum ∧ 1 ≤ r.checkMs ∧ 1 ≤ r.riseLimit ∧ r.riseLimit ≤ 1000 := by
  have hcheck : r.checkMs ≤ 255 := Nat.le_of_lt_succ h.checkMs
  simp only [DriveRecord.inRange_iff, hcheck, and_true]

/-! ## The requests -/

theorem serveSetEye_none (h : eyeRecordOf b = none) : serveSetEye b s = .refused .badValue := by
  unfold serveSetEye; rw [h]

/-- SetEye is refused for a field first, and then for a record in use. -/
theorem serveSetEye_eq {k : Fin 16} {r : EyeRecord} (h : eyeRecordOf b = some (k, r)) : serveSetEye b s =
    if ¬r.inRange s.ltr = true then .refused .badValue
    else if s.ttb.eyeInUse k = true then .refused .busy
    else .reply (s.setZmr { s.zmr with eyes := s.zmr.eyes.set k (some r) }).scan (r.setEyePayload k) := by
  unfold serveSetEye; rw [h]; simp

theorem serveSetDrive_none (h : driveRecordOf b = none) : serveSetDrive b s = .refused .badValue := by
  unfold serveSetDrive; rw [h]

/-- SetDrive is refused for a field first, and then for a record in use. -/
theorem serveSetDrive_eq {k : Fin 8} {r : DriveRecord} (h : driveRecordOf b = some (k, r)) : serveSetDrive b s =
    if ¬r.inRange = true then .refused .badValue
    else if s.ttb.driveInUse k = true then .refused .busy
    else .reply (s.setZmr { s.zmr with drives := s.zmr.drives.set k (some r) }).scan (r.setDrivePayload k) := by
  unfold serveSetDrive; rw [h]; simp

theorem exec_setEye (hs : s.Serves f rest) (hk : f.kind = 0x08#8) (hlen : f.payload.length = 12) :
    exec (.setEye dt) s = .next ((s.serving dt rest).answer f (serveSetEye f.payload (s.serving dt rest))).kick :=
  serve_serves hs hk hlen

theorem exec_setDrive (hs : s.Serves f rest) (hk : f.kind = 0x09#8) (hlen : f.payload.length = 13) :
    exec (.setDrive dt) s = .next ((s.serving dt rest).answer f (serveSetDrive f.payload (s.serving dt rest))).kick :=
  serve_serves hs hk hlen

/-- An index or a line that names nothing is refused. -/
theorem exec_setEye_badCode (hs : s.Serves f rest) (hk : f.kind = 0x08#8) (hlen : f.payload.length = 12)
    (hbad : 16 ≤ field f.payload 0 1 ∨ 48 ≤ field f.payload 1 1) :
    exec (.setEye dt) s = .next (s.refusal dt f rest .badValue) := by
  rw [exec_setEye hs hk hlen]
  cases hread : eyeRecordOf f.payload with
  | none => rw [serveSetEye_none hread, State.serving_refused]
  | some x =>
    obtain ⟨hindex, hline⟩ := eyeRecordOf_lt hread
    omega

/-- An index or a select that names nothing is refused. -/
theorem exec_setDrive_badCode (hs : s.Serves f rest) (hk : f.kind = 0x09#8) (hlen : f.payload.length = 13)
    (hbad : 8 ≤ field f.payload 0 1 ∨ 8 ≤ field f.payload 1 1) :
    exec (.setDrive dt) s = .next (s.refusal dt f rest .badValue) := by
  rw [exec_setDrive hs hk hlen]
  cases hread : driveRecordOf f.payload with
  | none => rw [serveSetDrive_none hread, State.serving_refused]
  | some x =>
    obtain ⟨hindex, hselect⟩ := driveRecordOf_lt hread
    omega

/-- Settles O43: what each payload reads as, the refusals in their order, and the acceptance. -/
theorem setEyeAndSetDriveStoreTheirRecords : Obligations.SetEyeAndSetDriveStoreTheirRecords := by
  refine ⟨?_, fun dt s f rest hs => ⟨exec_setEye_badCode hs, exec_setDrive_badCode hs⟩, ?_⟩
  · intro dt s f rest k r hs hk hpay hX htol hlenTol hpasses hexpected inUse legal
    have hc : r.Carried := ⟨hX, htol, hlenTol, hpasses, hexpected⟩
    have hexec := exec_setEye (dt := dt) hs hk (by rw [hpay]; rfl)
    rw [serveSetEye_eq (by rw [hpay]; exact eyeRecordOf_bytes hc)] at hexec
    have hlegal : r.inRange (s.serving dt rest).ltr = true ↔ legal := EyeRecord.inRange_carried hc _
    have huse : (s.serving dt rest).ttb.eyeInUse k = true ↔ inUse := Ttb.eyeInUse_iff k
    refine ⟨fun h => ?_, fun h hu => ?_, fun h hu => ⟨_, ?_, State.scan_kept _⟩⟩
    · rw [hexec, if_pos (mt hlegal.1 h), State.serving_refused]
    · rw [hexec, if_neg (not_not_intro (hlegal.2 h)), if_pos (huse.2 hu), State.serving_refused]
    · rw [hexec, if_neg (not_not_intro (hlegal.2 h)), if_neg (mt huse.1 hu), State.serving_reply, hpay]; rfl
  · intro dt s f rest k r hs hk hpay hbase hmaximum hcheckMs hrise hovershoot hband inUse legal
    have hc : r.Carried := ⟨hbase, hmaximum, hcheckMs, hrise, hovershoot, hband⟩
    have hexec := exec_setDrive (dt := dt) hs hk (by rw [hpay]; rfl)
    rw [serveSetDrive_eq (by rw [hpay]; exact driveRecordOf_bytes hc)] at hexec
    have hlegal : r.inRange = true ↔ legal := DriveRecord.inRange_carried hc
    have huse : (s.serving dt rest).ttb.driveInUse k = true ↔ inUse := Ttb.driveInUse_iff k
    refine ⟨fun h => ?_, fun h hu => ?_, fun h hu => ⟨_, ?_, State.scan_kept _⟩⟩
    · rw [hexec, if_pos (mt hlegal.1 h), State.serving_refused]
    · rw [hexec, if_neg (not_not_intro (hlegal.2 h)), if_pos (huse.2 hu), State.serving_refused]
    · rw [hexec, if_neg (not_not_intro (hlegal.2 h)), if_neg (mt huse.1 hu), State.serving_reply, hpay]; rfl

end Sys2Proof.Machine
end
